-- ==== Sys2Proof/Word.lean ====
section
/-! DEFINITION. The machine's word types: the byte of a frame and of the codec buffer, the 32-bit word of the
command port (spec 30_encoding.md R70, R71) and the 64-bit data word of a response (R80). All unsigned (00_scope.md R10). -/

namespace Sys2Proof

/-- A byte: a codec buffer byte, a frame byte, a pixel channel. -/
abbrev Byte := BitVec 8

/-- A word of the command port: an opcode word or an operand word (R70, R71). -/
abbrev Word := BitVec 32

/-- The data word of a response (R80). -/
abbrev DataWord := BitVec 64

end Sys2Proof
end

