-- ==== Sys2Proof/Config.lean ====
section
/-! DEFINITION. The parameters of one LFE instance (spec 00_scope.md R8, R9) and the free values: what the spec leaves
to the transport or does not state. A free value has no body, so a claim about it holds whatever it is. -/

namespace Sys2Proof

/-- `BUILD_ORDER`'s two values (R8); also the order argument of the conversion functions (40_codec.md R100). -/
inductive ByteOrder where
  | big
  | little
deriving DecidableEq, Repr

/-- The six answers a transport can give to a write (10_state.md R34). -/
inductive TransportAnswer where
  | ok
  | openFailed
  | modeRejected
  | wordSizeRejected
  | speedRejected
  | writeFailed
deriving DecidableEq, Repr, Inhabited

/-- The parameters of R8. The four OPEN ones have no default; `wrcmd` and `fctrl` have the spec's (41_backlight.md R133,
R134). The instance's parameters never change (R9); see log 2 for where the model carries them. -/
structure Config where
  /-- `PIXEL_COUNT`, the spec's N. -/
  pixelCount : Nat
  /-- `BUILD_ORDER`. -/
  buildOrder : ByteOrder
  /-- `CODEC_BUF_BYTES`, the spec's CB. -/
  codecBufBytes : Nat
  /-- `DIRTY_RESET`. -/
  dirtyReset : Bool
  /-- `WRCMD`, default 100101b (R133, log 4). -/
  wrcmd : BitVec 6 := 0b100101#6
  /-- `FCTRL`, default 10110b (R134, log 4). -/
  fctrl : BitVec 5 := 0b10110#5
deriving DecidableEq, Repr

/-- DESIGN CHOICE (log 3, unsafe for any claim that rests on the numbers): the instance `State.reset` is the reset state
of. The spec leaves the four OPEN parameters open; the statements are about every `Config`, not about this one. -/
def Config.sample : Config :=
  { pixelCount := 4, buildOrder := .big, codecBufBytes := 16, dirtyReset := false }

/-- FREE VALUE (10_state.md R34, log 5): the transport's answer to the n-th write, where the state lists no answer for it. -/
opaque Config.freeAnswer : Nat → TransportAnswer

/-- FREE VALUE (log 10): the data word CDC_GET_CURSOR answers for a cursor that does not fit 64 bits; the spec states
`zext_64(CUR)` (40_codec.md R110) and gives CB no upper bound. -/
opaque Config.freeCursorData : Nat → DataWord

end Sys2Proof
end

