-- ==== Sys2Proof/Syntax.lean ====
section
/-! DEFINITION. The commands of the LFE as syntax: one constructor of `Instr` per row of spec/opcode_table.json
(30_encoding.md R78), each with the operand words A0, A1, ... of its row and its modifier field (R74 to R77). -/

namespace Sys2Proof

/-- The codec widths (30_encoding.md R76). -/
inductive Width where
  | w8
  | w16
  | w24
  | w32
  | w64
deriving DecidableEq, Repr

/-- One command of the command port. `w` is the 3-bit width code W of R76 (a reserved code is an ill-formed command),
`f` the flush modifier F of R75, `c` the channel selector C of R77 (false is channel 1). -/
inductive Instr where
  -- Byte-Order Codec (40_codec.md)
  | cdcEnc (w : BitVec 3) (a0 a1 : Word)
  | cdcEncAt (w : BitVec 3) (a0 a1 a2 : Word)
  | cdcDec (w : BitVec 3)
  | cdcDecAt (w : BitVec 3) (a0 : Word)
  | cdcRewind
  | cdcGetCursor
  -- Backlight Encoder (41_backlight.md)
  | blSetBc (f : Bool) (ch1 ch2 : Word)
  | blSetGs (f : Bool) (ch1 ch2 : Word)
  | blFlush
  | blGetBc (c : Bool)
  | blGetGs (c : Bool)
  | blGetDirty
  -- Pixel Buffer (42_pixel.md)
  | pxSet (idx r g b brt : Word)
  | pxSetR (idx v : Word)
  | pxSetG (idx v : Word)
  | pxSetB (idx v : Word)
  | pxSetBrt (idx v : Word)
  | pxGetR (idx : Word)
  | pxGetG (idx : Word)
  | pxGetB (idx : Word)
  | pxGetBrt (idx : Word)
  | pxFill (r g b brt : Word)
  | pxPushFront (r g b brt : Word)
  | pxPushBack (r g b brt : Word)
  | pxRotL
  | pxRotR
  | pxClear
  | pxShow
  | pxTeardown
deriving DecidableEq, Repr

/-- The assigned opcodes (R78): what the OP field names before the operands are read. -/
inductive Opcode where
  | cdcEnc | cdcEncAt | cdcDec | cdcDecAt | cdcRewind | cdcGetCursor
  | blSetBc | blSetGs | blFlush | blGetBc | blGetGs | blGetDirty
  | pxSet | pxSetR | pxSetG | pxSetB | pxSetBrt
  | pxGetR | pxGetG | pxGetB | pxGetBrt
  | pxFill | pxPushFront | pxPushBack | pxRotL | pxRotR | pxClear | pxShow | pxTeardown
deriving DecidableEq, Repr

/-- The use an opcode makes of the MOD field (R74). -/
inductive ModUse where
  | none
  | flush
  | channel
  | width
deriving DecidableEq, Repr

/-- Why words are no command yet, or none at all. The first two are not refusals: the port holds no whole command.
The others are the causes of the refusal ReservedEncoding (60_exceptions.md R222). -/
inductive DecodeError where
  /-- no word -/
  | empty
  /-- an assigned opcode word with fewer operand words than its k (R70) -/
  | incomplete
  /-- RSV is not 0 (R73) -/
  | reservedRsv
  /-- OP is not in the table (R79) -/
  | reservedOpcode
  /-- an unused MOD bit is not 0 (R74) -/
  | reservedMod
  /-- W is 5, 6 or 7 (R76) -/
  | reservedWidth
deriving DecidableEq, Repr

end Sys2Proof
end

