-- ==== Sys2Proof/WellFormed.lean ====
section
/-! DEFINITION. Which commands and which parameters are well-formed. Operand words need no check: each is any 32-bit
number, and range checks are the LFE's own, at run time (30_encoding.md R71). -/

namespace Sys2Proof

/-- A width code the table of R76 assigns: 0 to 4. -/
def widthCodeAssigned (w : BitVec 3) : Bool := decide (w.toNat ≤ 4)

/-- A command is well-formed when its width code, if it has one, is not reserved (R76). -/
def Instr.wellFormed : Instr → Bool
  | .cdcEnc w _ _ => widthCodeAssigned w
  | .cdcEncAt w _ _ _ => widthCodeAssigned w
  | .cdcDec w => widthCodeAssigned w
  | .cdcDecAt w _ => widthCodeAssigned w
  | .cdcRewind => true
  | .cdcGetCursor => true
  | .blSetBc _ _ _ => true
  | .blSetGs _ _ _ => true
  | .blFlush => true
  | .blGetBc _ => true
  | .blGetGs _ => true
  | .blGetDirty => true
  | .pxSet _ _ _ _ _ => true
  | .pxSetR _ _ => true
  | .pxSetG _ _ => true
  | .pxSetB _ _ => true
  | .pxSetBrt _ _ => true
  | .pxGetR _ => true
  | .pxGetG _ => true
  | .pxGetB _ => true
  | .pxGetBrt _ => true
  | .pxFill _ _ _ _ => true
  | .pxPushFront _ _ _ _ => true
  | .pxPushBack _ _ _ _ => true
  | .pxRotL => true
  | .pxRotR => true
  | .pxClear => true
  | .pxShow => true
  | .pxTeardown => true

/-- The ranges of the OPEN parameters (00_scope.md R8): 1 ≤ N ≤ 2^32 − 1 and CB ≥ 8. -/
def Config.wellFormed (c : Config) : Bool :=
  decide (1 ≤ c.pixelCount) && decide (c.pixelCount ≤ 2 ^ 32 - 1) && decide (8 ≤ c.codecBufBytes)

end Sys2Proof
end

