-- ==== Sys2Proof/Decode.lean ====
section
/-! DEFINITION. The decoder and the encoder of the command port, written from the tables of spec 30_encoding.md R70 to
R79. A command is a list of whole 32-bit words, the opcode word first; words carry no byte order (20_memory.md R54). -/

namespace Sys2Proof

/-- OP = word[7:0] (R72). -/
def opField (w : Word) : BitVec 8 := w.extractLsb' 0 8

/-- MOD = word[15:8] (R72). -/
def modField (w : Word) : BitVec 8 := w.extractLsb' 8 8

/-- RSV = word[31:16] (R72). -/
def rsvField (w : Word) : BitVec 16 := w.extractLsb' 16 16

/-- W = MOD[2:0] (R76). -/
def widthField (m : BitVec 8) : BitVec 3 := m.extractLsb' 0 3

/-- MOD[0], which is F (R75) or C (R77). -/
def lowBit (m : BitVec 8) : Bool := m.getLsbD 0

/-- The width a code W selects; none for the reserved codes (R76). -/
def widthOfCode (w : BitVec 3) : Option Width :=
  match w.toNat with
  | 0 => some .w8
  | 1 => some .w16
  | 2 => some .w24
  | 3 => some .w32
  | 4 => some .w64
  | _ => none

/-- The opcode an OP byte names; none for the reserved values (R78, R79). -/
def opcodeOfByte (b : BitVec 8) : Option Opcode :=
  match b.toNat with
  | 0x01 => some .cdcEnc
  | 0x02 => some .cdcEncAt
  | 0x03 => some .cdcDec
  | 0x04 => some .cdcDecAt
  | 0x05 => some .cdcRewind
  | 0x06 => some .cdcGetCursor
  | 0x10 => some .blSetBc
  | 0x11 => some .blSetGs
  | 0x12 => some .blFlush
  | 0x13 => some .blGetBc
  | 0x14 => some .blGetGs
  | 0x15 => some .blGetDirty
  | 0x20 => some .pxSet
  | 0x21 => some .pxSetR
  | 0x22 => some .pxSetG
  | 0x23 => some .pxSetB
  | 0x24 => some .pxSetBrt
  | 0x25 => some .pxGetR
  | 0x26 => some .pxGetG
  | 0x27 => some .pxGetB
  | 0x28 => some .pxGetBrt
  | 0x29 => some .pxFill
  | 0x2A => some .pxPushFront
  | 0x2B => some .pxPushBack
  | 0x2C => some .pxRotL
  | 0x2D => some .pxRotR
  | 0x2E => some .pxClear
  | 0x2F => some .pxShow
  | 0x30 => some .pxTeardown
  | _ => none

/-- Column "MOD" of R78. -/
def Opcode.modUse : Opcode → ModUse
  | .cdcEnc | .cdcEncAt | .cdcDec | .cdcDecAt => .width
  | .blSetBc | .blSetGs => .flush
  | .blGetBc | .blGetGs => .channel
  | .cdcRewind | .cdcGetCursor | .blFlush | .blGetDirty => .none
  | .pxSet | .pxSetR | .pxSetG | .pxSetB | .pxSetBrt => .none
  | .pxGetR | .pxGetG | .pxGetB | .pxGetBrt => .none
  | .pxFill | .pxPushFront | .pxPushBack => .none
  | .pxRotL | .pxRotR | .pxClear | .pxShow | .pxTeardown => .none

/-- The MOD bits that must be 0 (R74): all but the field the opcode uses. -/
def ModUse.unusedMask : ModUse → BitVec 8
  | .none => 0b11111111#8
  | .flush => 0b11111110#8
  | .channel => 0b11111110#8
  | .width => 0b11111000#8

/-- A command without operand words. -/
def readOperands0 (i : Instr) (ws : List Word) : Except DecodeError (Instr × List Word) :=
  .ok (i, ws)

/-- One operand word, A0. -/
def readOperands1 (f : Word → Instr) : List Word → Except DecodeError (Instr × List Word)
  | a0 :: ws => .ok (f a0, ws)
  | _ => .error .incomplete

/-- Two operand words, A0 and A1. -/
def readOperands2 (f : Word → Word → Instr) : List Word → Except DecodeError (Instr × List Word)
  | a0 :: a1 :: ws => .ok (f a0 a1, ws)
  | _ => .error .incomplete

/-- Three operand words, A0 to A2. -/
def readOperands3 (f : Word → Word → Word → Instr) : List Word → Except DecodeError (Instr × List Word)
  | a0 :: a1 :: a2 :: ws => .ok (f a0 a1 a2, ws)
  | _ => .error .incomplete

/-- Four operand words, A0 to A3. -/
def readOperands4 (f : Word → Word → Word → Word → Instr) : List Word → Except DecodeError (Instr × List Word)
  | a0 :: a1 :: a2 :: a3 :: ws => .ok (f a0 a1 a2 a3, ws)
  | _ => .error .incomplete

/-- Five operand words, A0 to A4. -/
def readOperands5 (f : Word → Word → Word → Word → Word → Instr) : List Word → Except DecodeError (Instr × List Word)
  | a0 :: a1 :: a2 :: a3 :: a4 :: ws => .ok (f a0 a1 a2 a3 a4, ws)
  | _ => .error .incomplete

/-- Columns "k" and "operands" of R78: the operand words an opcode takes, in order, with the MOD field `m`. -/
def Opcode.readOperands (o : Opcode) (m : BitVec 8) : List Word → Except DecodeError (Instr × List Word) :=
  match o with
  | .cdcEnc => readOperands2 (.cdcEnc (widthField m))
  | .cdcEncAt => readOperands3 (.cdcEncAt (widthField m))
  | .cdcDec => readOperands0 (.cdcDec (widthField m))
  | .cdcDecAt => readOperands1 (.cdcDecAt (widthField m))
  | .cdcRewind => readOperands0 .cdcRewind
  | .cdcGetCursor => readOperands0 .cdcGetCursor
  | .blSetBc => readOperands2 (.blSetBc (lowBit m))
  | .blSetGs => readOperands2 (.blSetGs (lowBit m))
  | .blFlush => readOperands0 .blFlush
  | .blGetBc => readOperands0 (.blGetBc (lowBit m))
  | .blGetGs => readOperands0 (.blGetGs (lowBit m))
  | .blGetDirty => readOperands0 .blGetDirty
  | .pxSet => readOperands5 .pxSet
  | .pxSetR => readOperands2 .pxSetR
  | .pxSetG => readOperands2 .pxSetG
  | .pxSetB => readOperands2 .pxSetB
  | .pxSetBrt => readOperands2 .pxSetBrt
  | .pxGetR => readOperands1 .pxGetR
  | .pxGetG => readOperands1 .pxGetG
  | .pxGetB => readOperands1 .pxGetB
  | .pxGetBrt => readOperands1 .pxGetBrt
  | .pxFill => readOperands4 .pxFill
  | .pxPushFront => readOperands4 .pxPushFront
  | .pxPushBack => readOperands4 .pxPushBack
  | .pxRotL => readOperands0 .pxRotL
  | .pxRotR => readOperands0 .pxRotR
  | .pxClear => readOperands0 .pxClear
  | .pxShow => readOperands0 .pxShow
  | .pxTeardown => readOperands0 .pxTeardown

/-- The command the leading words are, and the words behind it (R70). The opcode word's own checks come first (R226):
RSV (R73), OP (R79), unused MOD bits (R74), W (R76); a reserved OP has no length. -/
def decode : List Word → Except DecodeError (Instr × List Word)
  | [] => .error .empty
  | w :: ws =>
    if rsvField w ≠ 0#16 then .error .reservedRsv
    else
      match opcodeOfByte (opField w) with
      | none => .error .reservedOpcode
      | some o =>
        if modField w &&& o.modUse.unusedMask ≠ 0#8 then .error .reservedMod
        else if o.modUse = .width ∧ widthOfCode (widthField (modField w)) = none then .error .reservedWidth
        else o.readOperands (modField w) ws

/-- An opcode word: RSV = 0, MOD, OP (R72). -/
def opcodeWord (op mod : BitVec 8) : Word := 0#16 ++ mod ++ op

/-- MOD with the width code in bits 2:0 (R76). -/
def modOfWidth (w : BitVec 3) : BitVec 8 := 0#5 ++ w

/-- MOD with F or C in bit 0 (R75, R77). -/
def modOfBit (b : Bool) : BitVec 8 := 0#7 ++ BitVec.ofBool b

/-- The words of a command, from the table of R78. -/
def encode : Instr → List Word
  | .cdcEnc w a0 a1 => [opcodeWord 0x01#8 (modOfWidth w), a0, a1]
  | .cdcEncAt w a0 a1 a2 => [opcodeWord 0x02#8 (modOfWidth w), a0, a1, a2]
  | .cdcDec w => [opcodeWord 0x03#8 (modOfWidth w)]
  | .cdcDecAt w a0 => [opcodeWord 0x04#8 (modOfWidth w), a0]
  | .cdcRewind => [opcodeWord 0x05#8 0#8]
  | .cdcGetCursor => [opcodeWord 0x06#8 0#8]
  | .blSetBc f ch1 ch2 => [opcodeWord 0x10#8 (modOfBit f), ch1, ch2]
  | .blSetGs f ch1 ch2 => [opcodeWord 0x11#8 (modOfBit f), ch1, ch2]
  | .blFlush => [opcodeWord 0x12#8 0#8]
  | .blGetBc c => [opcodeWord 0x13#8 (modOfBit c)]
  | .blGetGs c => [opcodeWord 0x14#8 (modOfBit c)]
  | .blGetDirty => [opcodeWord 0x15#8 0#8]
  | .pxSet idx r g b brt => [opcodeWord 0x20#8 0#8, idx, r, g, b, brt]
  | .pxSetR idx v => [opcodeWord 0x21#8 0#8, idx, v]
  | .pxSetG idx v => [opcodeWord 0x22#8 0#8, idx, v]
  | .pxSetB idx v => [opcodeWord 0x23#8 0#8, idx, v]
  | .pxSetBrt idx v => [opcodeWord 0x24#8 0#8, idx, v]
  | .pxGetR idx => [opcodeWord 0x25#8 0#8, idx]
  | .pxGetG idx => [opcodeWord 0x26#8 0#8, idx]
  | .pxGetB idx => [opcodeWord 0x27#8 0#8, idx]
  | .pxGetBrt idx => [opcodeWord 0x28#8 0#8, idx]
  | .pxFill r g b brt => [opcodeWord 0x29#8 0#8, r, g, b, brt]
  | .pxPushFront r g b brt => [opcodeWord 0x2A#8 0#8, r, g, b, brt]
  | .pxPushBack r g b brt => [opcodeWord 0x2B#8 0#8, r, g, b, brt]
  | .pxRotL => [opcodeWord 0x2C#8 0#8]
  | .pxRotR => [opcodeWord 0x2D#8 0#8]
  | .pxClear => [opcodeWord 0x2E#8 0#8]
  | .pxShow => [opcodeWord 0x2F#8 0#8]
  | .pxTeardown => [opcodeWord 0x30#8 0#8]

/-- The six words (the longest command, PX_SET) of a number whose low `nbits` bits are the table's, bits above being 0;
bit 0 is the first word's least significant bit (log 18). -/
def tableWords (nbits w : Nat) : List Word :=
  (List.range 6).map fun j => BitVec.ofNat 32 ((w % 2 ^ nbits) >>> (32 * j))

/-- What the decoder reads from an opcode-table number. -/
def decodeTableWord (nbits w : Nat) : Option Instr :=
  match decode (tableWords nbits w) with
  | .ok (i, _) => some i
  | .error _ => none

end Sys2Proof
end

