-- ==== Sys2Proof/Machine/State.lean ====
section
/-! DEFINITION. The state of the LFE (spec 10_state.md R22 to R30), its two ports as plain data (R32 to R34), the reasons
a step can stop, and the state after reset (R36). -/

namespace Sys2Proof.Machine

/-- A pixel: four independent 8-bit channels, red, green, blue, brightness (10_state.md R25). -/
structure Pixel where
  r : Byte
  g : Byte
  b : Byte
  w : Byte
deriving DecidableEq, Repr

/-- The pixel Z of 42_pixel.md R174. -/
def Pixel.zero : Pixel := { r := 0, g := 0, b := 0, w := 0 }

/-- What a completed command reports (60_exceptions.md R220). The code numbers are `Status.code`. -/
inductive Status where
  | ok
  | valueOutOfRange
  | indexOutOfRange
  | transportOpenFailed
  | transportModeRejected
  | transportWordSizeRejected
  | transportSpeedRejected
  | transportWriteFailed
deriving DecidableEq, Repr

/-- The response to a completed command: an 8-bit status code and a 64-bit data word (30_encoding.md R80). -/
structure Response where
  status : BitVec 8
  data : DataWord
deriving DecidableEq, Repr

/-- The target tag of a transport write (10_state.md R33). -/
inductive Target where
  | backlight
  | strip
deriving DecidableEq, Repr

/-- One write transaction on the transport port: its target and the bytes handed over, first byte first (R33, R10). -/
structure Transaction where
  target : Target
  bytes : List Byte
deriving DecidableEq, Repr

/-- What the host does on the command port: transfer one word of a command (R32; words are whole, 20_memory.md R54), or
assert reset (70_reset_and_hazards.md R250). -/
inductive HostInput where
  | word (w : Word)
  | reset
deriving DecidableEq, Repr

/-- The machine. The first block is the spec's state, the second its configuration, the third the model's own picture of
the two ports (log 1, 2, 5, 7). -/
structure State where
  /-- `BC[0]`, channel 1 brightness (R22). -/
  bc0 : BitVec 7
  /-- `BC[1]`, channel 2 brightness (R22). -/
  bc1 : BitVec 7
  /-- `GS[0]`, channel 1 grayscale (R23). -/
  gs0 : BitVec 16
  /-- `GS[1]`, channel 2 grayscale (R23). -/
  gs1 : BitVec 16
  /-- `DIRTY` (R24). -/
  dirty : Bool
  /-- `PX[0..N-1]`, front first (R25). -/
  px : List Pixel
  /-- `LIVE` (R26). -/
  live : Bool
  /-- `CBUF` and `WRITTEN` (R28, R30): the written bytes by address, addresses strictly rising; an address that is not
  listed is unwritten and holds no value (log 9). -/
  cbuf : List Host.Cell
  /-- `CUR` (R29). -/
  cur : Nat
  /-- The parameters of this instance (00_scope.md R8, R9); no step changes them (log 2). -/
  config : Config
  /-- What the host will do next on the command port, soonest first (R32, log 1). -/
  inputs : List HostInput
  /-- The transport's answers to the coming writes, soonest first (R34, log 5). -/
  answers : List TransportAnswer
  /-- How many transport writes there have been; the free answer is applied to it (log 5). -/
  draws : Nat
  /-- The responses given so far, oldest first (70_reset_and_hazards.md R265, log 7). -/
  responses : List Response
  /-- The transport writes made so far, oldest first (R265, log 7). -/
  frames : List Transaction
deriving DecidableEq, Repr

/-- Why the machine stops with a fault (60_exceptions.md R223). -/
inductive Fault where
  /-- CDC_DEC and CDC_DEC_AT, on a byte no encode has written since reset (40_codec.md R104). The spec's own fault: safe. -/
  | unwrittenCodecByte
deriving DecidableEq, Repr

/-- Why a command has no meaning (60_exceptions.md R222); the run takes no further step (00_scope.md R12). -/
inductive Refusal where
  /-- `exec`'s arm of a command that has no meaning yet. Safe; no arm uses it. -/
  | notModelled (mnemonic : String)
  /-- The decoder, on RSV ≠ 0, a reserved OP, an unused MOD bit or a reserved width code, and the codec commands on a
  reserved width code (30_encoding.md R73, R74, R76, R79). The spec's own refusal: safe. -/
  | reservedEncoding
  /-- CDC_ENC and CDC_ENC_AT on a value of 2^w or more (40_codec.md R103). The spec's own refusal: safe. -/
  | codecValueRange
  /-- The codec commands on bytes that do not all lie in the codec buffer (R103). The spec's own refusal: safe. -/
  | codecBounds
  /-- Every Pixel Buffer command while LIVE = 0 (42_pixel.md R171). The spec's own refusal: safe. -/
  | pixelBufferTornDown
  /-- The fetch, on a reset asserted when some but not all words of a command have been transferred. The spec has no step
  in which reset lands inside a command (70_reset_and_hazards.md R251, log 12). The model's own name: safe. -/
  | resetInsideCommand
deriving DecidableEq, Repr

/-- The state after reset of the instance with parameters `c` (R36), with nothing on the ports (log 1, 5, 7). -/
def State.resetOf (c : Config) : State :=
  { bc0 := 127#7
    bc1 := 127#7
    gs0 := 65535#16
    gs1 := 65535#16
    dirty := c.dirtyReset
    px := List.replicate c.pixelCount Pixel.zero
    live := true
    cbuf := []
    cur := 0
    config := c
    inputs := []
    answers := []
    draws := 0
    responses := []
    frames := [] }

/-- The state after reset of the sample instance (`Config.sample`, DESIGN CHOICE, log 3). -/
def State.reset : State := State.resetOf Config.sample

end Sys2Proof.Machine
end

