-- ==== Sys2Proof/Machine/Ops.lean ====
section
/-! DEFINITION. The named operations over the state: the codec buffer's bytes, the writes of each register, ending a
command (`complete`, `raise`: 00_scope.md R11), the transport port (10_state.md R33, R34), the command port and the reset
event (70_reset_and_hazards.md R250). -/

namespace Sys2Proof.Machine

/-- How a command ends. -/
abbrev Result := Host.Outcome State Fault Refusal

/-! ### The codec buffer -/

/-- The byte at an address; none where nothing has been written (10_state.md R28, R30). -/
def readByte : List Host.Cell → Nat → Option Byte
  | [], _ => none
  | (k, v) :: m, a => if a = k then some v else readByte m a

/-- `WRITTEN[a]` (R30). -/
def written (m : List Host.Cell) (a : Nat) : Bool := (readByte m a).isSome

/-- Write one byte, keeping the addresses strictly rising. -/
def writeByte : List Host.Cell → Nat → Byte → List Host.Cell
  | [], a, b => [(a, b)]
  | (k, v) :: m, a, b =>
    if a < k then (a, b) :: (k, v) :: m
    else if a = k then (a, b) :: m
    else (k, v) :: writeByte m a b

/-- `MemWrite(a, n, s)` with the WRITTEN bits of the same bytes set (R11, 40_codec.md R105). -/
def writeBytes (m : List Host.Cell) (a : Nat) : List Byte → List Host.Cell
  | [] => m
  | b :: bs => writeBytes (writeByte m a b) (a + 1) bs

/-- `MemRead(a, n)`; none if any of the bytes is unwritten (R11, 40_codec.md R104). -/
def readBytes (m : List Host.Cell) (a : Nat) : Nat → Option (List Byte)
  | 0 => some []
  | n + 1 =>
    match readByte m a, readBytes m (a + 1) n with
    | some b, some bs => some (b :: bs)
    | _, _ => none

/-- The canonical form of the codec buffer: addresses strictly rising. (No entry can equal what an unlisted address reads
as: an unlisted address holds no value.) -/
abbrev Memory.wf (m : List Host.Cell) : Prop := (m.map Prod.fst).Pairwise (· < ·)

/-! ### Register writes -/

/-- `BC[0] <- b0; BC[1] <- b1`. -/
def State.setBc (s : State) (b0 b1 : BitVec 7) : State := { s with bc0 := b0, bc1 := b1 }

/-- `GS[0] <- g0; GS[1] <- g1`. -/
def State.setGs (s : State) (g0 g1 : BitVec 16) : State := { s with gs0 := g0, gs1 := g1 }

/-- `DIRTY <- d`. -/
def State.setDirty (s : State) (d : Bool) : State := { s with dirty := d }

/-- `PX <- new`. -/
def State.setPx (s : State) (new : List Pixel) : State := { s with px := new }

/-- `LIVE <- l`. -/
def State.setLive (s : State) (l : Bool) : State := { s with live := l }

/-- The codec buffer, with its WRITTEN bits. -/
def State.setCbuf (s : State) (m : List Host.Cell) : State := { s with cbuf := m }

/-- `CUR <- n`. -/
def State.setCur (s : State) (n : Nat) : State := { s with cur := n }

/-- `BC[C]` (30_encoding.md R77: false is channel 1). -/
def State.bc (s : State) (c : Bool) : BitVec 7 := if c then s.bc1 else s.bc0

/-- `GS[C]` (R77). -/
def State.gs (s : State) (c : Bool) : BitVec 16 := if c then s.gs1 else s.gs0

/-- `PX[i]`. For i < N this is the pixel; past the list's end, which no run from reset reaches, it is Z (log 15). -/
def State.pixelAt (s : State) (i : Nat) : Pixel := s.px[i]?.getD Pixel.zero

/-! ### Ending a command -/

/-- The status code numbers (60_exceptions.md R220). -/
def Status.code : Status → BitVec 8
  | .ok => 0x00#8
  | .valueOutOfRange => 0x01#8
  | .indexOutOfRange => 0x02#8
  | .transportOpenFailed => 0x03#8
  | .transportModeRejected => 0x04#8
  | .transportWordSizeRejected => 0x05#8
  | .transportSpeedRejected => 0x06#8
  | .transportWriteFailed => 0x07#8

/-- One response on the command port (30_encoding.md R80). -/
def State.respond (s : State) (st : Status) (data : DataWord) : State :=
  { s with responses := s.responses ++ [{ status := st.code, data := data }] }

/-- `respond(status, data)` ends the command (00_scope.md R11). -/
def complete (st : Status) (data : DataWord) (s : State) : Result := .next (s.respond st data)

/-- `raise E` (R11): the command ends with the error status and data 0, the state as it is. This is all that an error does
on this block: there is no trap entry and no trap return (60_exceptions.md R227, R228). -/
def raise (e : Status) (s : State) : Result := complete e 0#64 s

/-! ### The transport port -/

/-- The answer to the next write: the next one listed, else the free value (10_state.md R34, log 5). -/
def State.nextAnswer (s : State) : TransportAnswer :=
  match s.answers with
  | a :: _ => a
  | [] => Config.freeAnswer s.draws

/-- `TransportWrite(target, bytes)` (R33): one transaction; its answer is `nextAnswer` of the state before it. -/
def State.transportWrite (s : State) (target : Target) (bytes : List Byte) : State :=
  { s with
    answers := s.answers.tail
    draws := s.draws + 1
    frames := s.frames ++ [{ target := target, bytes := bytes }] }

/-! ### The command port and reset -/

/-- The words the host has transferred before it does anything else. -/
def leadingWords : List HostInput → List Word
  | .word w :: rest => w :: leadingWords rest
  | _ => []

/-- What the LFE finds on its command port. -/
inductive Fetched where
  /-- no command, or the first words of one whose other words have not come: the LFE waits (log 11) -/
  | waiting
  /-- reset, between commands (70_reset_and_hazards.md R250, R251) -/
  | reset (rest : List HostInput)
  /-- a whole command, and what the host does after it -/
  | command (i : Instr) (rest : List HostInput)
  /-- words with a reserved encoding (30_encoding.md R73, R74, R76, R79) -/
  | reserved
  /-- a reset among the words of one command (R251, log 12) -/
  | resetInside
deriving DecidableEq, Repr

/-- Take the next command, or the next reset, from the command port (R70, 10_state.md R32). -/
def fetch (inputs : List HostInput) : Fetched :=
  match inputs with
  | [] => .waiting
  | .reset :: rest => .reset rest
  | .word w :: more =>
    let ws := w :: leadingWords more
    match decode ws with
    | .ok (i, behind) => .command i (inputs.drop (ws.length - behind.length))
    | .error .empty => .waiting
    | .error .incomplete => if ws.length = inputs.length then .waiting else .resetInside
    | .error .reservedRsv => .reserved
    | .error .reservedOpcode => .reserved
    | .error .reservedMod => .reserved
    | .error .reservedWidth => .reserved

/-- What remains on the command port once a command or a reset has been taken from it. -/
def State.withInputs (s : State) (rest : List HostInput) : State := { s with inputs := rest }

/-- The reset event (70_reset_and_hazards.md R250): the spec's state at the values of R36, the parameters unchanged
(R252), no frame and no response; the ports' other data are the outside's and stay (log 8). -/
def State.takeReset (s : State) (rest : List HostInput) : State :=
  { State.resetOf s.config with
    inputs := rest
    answers := s.answers
    draws := s.draws
    responses := s.responses
    frames := s.frames }

/-- The words a number of the opcode table stands for: the whole command where the decoder finds one, else its opcode
word (log 18). -/
def commandWords (nbits w : Nat) : List Word :=
  let ws := tableWords nbits w
  match decode ws with
  | .ok (_, behind) => ws.take (ws.length - behind.length)
  | .error _ => ws.take 1

end Sys2Proof.Machine
end

