-- ==== Sys2Proof/Machine/Operands.lean ====
section
/-! DEFINITION. The operand forms: widths (30_encoding.md R76), the 64-bit codec value (R71), the pixel of four operand
words (42_pixel.md R174), the range checks on whole 32-bit words (R71), and the codec's pure conversion functions
(40_codec.md R100, R101). -/

namespace Sys2Proof.Machine

/-- The width w in bits (30_encoding.md R76). -/
def widthBits : Width → Nat
  | .w8 => 8
  | .w16 => 16
  | .w24 => 24
  | .w32 => 32
  | .w64 => 64

/-- n = w / 8, the bytes of a width (R76). -/
def widthBytes (w : Width) : Nat := widthBits w / 8

/-- value = A1 : A0 (R71). -/
def codecValue (a0 a1 : Word) : BitVec 64 := a1 ++ a0

/-- v[8*i+7 : 8*i]. -/
def byteOf (v i : Nat) : Byte := BitVec.ofNat 8 (v / 2 ^ (8 * i))

/-- The place, counted from the least significant byte, of byte j of an n-byte sequence (40_codec.md R100, R101). -/
def bytePlace (order : ByteOrder) (n j : Nat) : Nat :=
  match order with
  | .big => n - 1 - j
  | .little => j

/-- `ToBytes(order, w, v)` (R100). -/
def toBytes (order : ByteOrder) (w : Width) (v : Nat) : List Byte :=
  (List.range (widthBytes w)).map fun j => byteOf v (bytePlace order (widthBytes w) j)

/-- `FromBytes(order, w, s)` (R101), for a list s of w/8 bytes. -/
def fromBytes (order : ByteOrder) (w : Width) (s : List Byte) : Nat :=
  ((List.range (widthBytes w)).map fun j => (s.getD j 0#8).toNat * 2 ^ (8 * bytePlace order (widthBytes w) j)).sum

/-- A[6:0] of a brightness operand that passed its check (41_backlight.md R140). -/
def brightnessOf (a : Word) : BitVec 7 := a.extractLsb' 0 7

/-- A[15:0] of a grayscale operand that passed its check (41_backlight.md R141). -/
def grayscaleOf (a : Word) : BitVec 16 := a.extractLsb' 0 16

/-- A[7:0] of a pixel channel operand that passed its check (42_pixel.md R175). -/
def channelOf (a : Word) : Byte := a.extractLsb' 0 8

/-- P(r, g, b, w) of four operand words (42_pixel.md R174, R175). -/
def pixelOf (r g b w : Word) : Pixel :=
  { r := channelOf r, g := channelOf g, b := channelOf b, w := channelOf w }

/-- Some operand, as a whole 32-bit number, exceeds the largest value allowed (30_encoding.md R71). -/
def anyAbove (largest : Nat) (operands : List Word) : Bool := operands.any fun a => decide (largest < a.toNat)

end Sys2Proof.Machine
end

