-- ==== Sys2Proof/Machine/Flags.lean ====
section
/-! DEFINITION. The flags DIRTY and LIVE, and the status a transport answer becomes (60_exceptions.md R221). -/

namespace Sys2Proof.Machine

/-- `StatusOf(ans)` (60_exceptions.md R221). -/
def statusOf : TransportAnswer → Status
  | .ok => .ok
  | .openFailed => .transportOpenFailed
  | .modeRejected => .transportModeRejected
  | .wordSizeRejected => .transportWordSizeRejected
  | .speedRejected => .transportSpeedRejected
  | .writeFailed => .transportWriteFailed

/-- DIRTY after a backlight transmission: cleared by the answer OK, else as it was (41_backlight.md R142). -/
def dirtyAfter (ans : TransportAnswer) (dirty : Bool) : Bool :=
  match ans with
  | .ok => false
  | .openFailed => dirty
  | .modeRejected => dirty
  | .wordSizeRejected => dirty
  | .speedRejected => dirty
  | .writeFailed => dirty

/-- zext_64(DIRTY) (41_backlight.md R146). -/
def dirtyData (dirty : Bool) : DataWord := (BitVec.ofBool dirty).setWidth 64

/-- The liveness check of 42_pixel.md R171: while LIVE = 0 the command is refused. -/
def whenLive (s : State) (k : Result) : Result :=
  if s.live then k else .refused .pixelBufferTornDown

end Sys2Proof.Machine
end

