-- ==== Sys2Proof/Machine/Backlight.lean ====
section
/-! DEFINITION. The Backlight Encoder's frame and commands (spec 41_backlight.md). -/

namespace Sys2Proof.Machine

/-- H = WRCMD : FCTRL : BC[0] : BC[1] : 0000000b (R132 to R134, R137). -/
def frameHeader (s : State) : BitVec 32 := s.config.wrcmd ++ s.config.fctrl ++ s.bc0 ++ s.bc1 ++ 0#7

/-- The twelve grayscale fields (R138). -/
def grayscaleFields (s : State) : List (BitVec 16) := [s.gs0, s.gs1] ++ List.replicate 10 0#16

/-- `BuildFrame()` (R139): big-endian whatever BUILD_ORDER is (R136, 20_memory.md R52). -/
def buildFrame (s : State) : List Byte :=
  toBytes .big .w32 (frameHeader s).toNat ++ (grayscaleFields s).flatMap fun g => toBytes .big .w16 g.toNat

/-- `respond(TransmitBacklight(), 0)` (R142): one write of the frame, DIRTY cleared on the answer OK, the answer's status. -/
def transmitBacklight (s : State) : Result :=
  complete (statusOf s.nextAnswer) 0#64
    ((s.transportWrite .backlight (buildFrame s)).setDirty (dirtyAfter s.nextAnswer s.dirty))

/-- How a setter that passed its check ends (R140, R141): with F = 1 by a transmission, else at once. -/
def finishSet (f : Bool) (s : State) : Result :=
  if f then transmitBacklight s else complete .ok 0#64 s

/-- BL_SET_BC (R140). -/
def execBlSetBc (f : Bool) (ch1 ch2 : Word) (s : State) : Result :=
  if anyAbove 127 [ch1, ch2] then raise .valueOutOfRange s
  else finishSet f ((s.setBc (brightnessOf ch1) (brightnessOf ch2)).setDirty true)

/-- BL_SET_GS (R141). -/
def execBlSetGs (f : Bool) (ch1 ch2 : Word) (s : State) : Result :=
  if anyAbove 65535 [ch1, ch2] then raise .valueOutOfRange s
  else finishSet f ((s.setGs (grayscaleOf ch1) (grayscaleOf ch2)).setDirty true)

/-- BL_FLUSH (R143). -/
def execBlFlush (s : State) : Result := transmitBacklight s

/-- BL_GET_BC (R144). -/
def execBlGetBc (c : Bool) (s : State) : Result := complete .ok ((s.bc c).setWidth 64) s

/-- BL_GET_GS (R145). -/
def execBlGetGs (c : Bool) (s : State) : Result := complete .ok ((s.gs c).setWidth 64) s

/-- BL_GET_DIRTY (R146). -/
def execBlGetDirty (s : State) : Result := complete .ok (dirtyData s.dirty) s

end Sys2Proof.Machine
end

