-- ==== Sys2Proof/Machine/Codec.lean ====
section
/-! DEFINITION. The Byte-Order Codec's commands (spec 40_codec.md). -/

namespace Sys2Proof.Machine

/-- The checks of an encode, in the order of R103: the width code (R76), the value, the bounds. -/
def whenEncodable (code : BitVec 3) (v a : Nat) (s : State) (k : Width → Result) : Result :=
  match widthOfCode code with
  | none => .refused .reservedEncoding
  | some w =>
    if widthBits w < 64 ∧ 2 ^ widthBits w ≤ v then .refused .codecValueRange
    else if s.config.codecBufBytes < a + widthBytes w then .refused .codecBounds
    else k w

/-- The checks of a decode: the width code (R76), the bounds (R103), every byte written (R104). The continuation gets the
width and the value `FromBytes(BUILD_ORDER, w, MemRead(a, n))`. -/
def whenDecodable (code : BitVec 3) (a : Nat) (s : State) (k : Width → Nat → Result) : Result :=
  match widthOfCode code with
  | none => .refused .reservedEncoding
  | some w =>
    if s.config.codecBufBytes < a + widthBytes w then .refused .codecBounds
    else
      match readBytes s.cbuf a (widthBytes w) with
      | none => .fault .unwrittenCodecByte
      | some bytes => k w (fromBytes s.config.buildOrder w bytes)

/-- `MemWrite(a, n, ToBytes(BUILD_ORDER, w, v))` with the WRITTEN bits of those bytes (R105, R106). -/
def State.storeValue (s : State) (w : Width) (a v : Nat) : State :=
  s.setCbuf (writeBytes s.cbuf a (toBytes s.config.buildOrder w v))

/-- zext_64(CUR) (30_encoding.md R81); for a cursor that does not fit 64 bits the spec states no value (log 10). -/
def cursorData (cur : Nat) : DataWord :=
  if cur < 2 ^ 64 then BitVec.ofNat 64 cur else Config.freeCursorData cur

/-- CDC_ENC (R105). -/
def execCdcEnc (code : BitVec 3) (a0 a1 : Word) (s : State) : Result :=
  whenEncodable code (codecValue a0 a1).toNat s.cur s fun w =>
    complete .ok 0#64 ((s.storeValue w s.cur (codecValue a0 a1).toNat).setCur (s.cur + widthBytes w))

/-- CDC_ENC_AT (R106). -/
def execCdcEncAt (code : BitVec 3) (a0 a1 a2 : Word) (s : State) : Result :=
  whenEncodable code (codecValue a0 a1).toNat a2.toNat s fun w =>
    complete .ok 0#64 (s.storeValue w a2.toNat (codecValue a0 a1).toNat)

/-- CDC_DEC (R107). -/
def execCdcDec (code : BitVec 3) (s : State) : Result :=
  whenDecodable code s.cur s fun w v =>
    complete .ok (BitVec.ofNat 64 v) (s.setCur (s.cur + widthBytes w))

/-- CDC_DEC_AT (R108). -/
def execCdcDecAt (code : BitVec 3) (a0 : Word) (s : State) : Result :=
  whenDecodable code a0.toNat s fun _ v => complete .ok (BitVec.ofNat 64 v) s

/-- CDC_REWIND (R109). -/
def execCdcRewind (s : State) : Result := complete .ok 0#64 (s.setCur 0)

/-- CDC_GET_CURSOR (R110). -/
def execCdcGetCursor (s : State) : Result := complete .ok (cursorData s.cur) s

end Sys2Proof.Machine
end

