-- ==== Sys2Proof/Machine/Pixel.lean ====
section
/-! DEFINITION. The Pixel Buffer's commands and the strip serializer (spec 42_pixel.md). Every command checks in the order
of R170: liveness (`whenLive`), index, values. -/

namespace Sys2Proof.Machine

/-- The index check (R172). -/
def whenIndex (idx : Word) (s : State) (k : Result) : Result :=
  if s.config.pixelCount ≤ idx.toNat then raise .indexOutOfRange s else k

/-- The value check (R173): every value operand, before any channel is written. -/
def whenChannels (values : List Word) (s : State) (k : Result) : Result :=
  if anyAbove 255 values then raise .valueOutOfRange s else k

/-- new[0..N-1], each entry computed from the old buffer (R174). -/
def newBuffer (s : State) (f : Nat → Pixel) : List Pixel := (List.range s.config.pixelCount).map f

/-- `PX[idx] <- f(PX[idx])`, the other entries unchanged. -/
def State.updatePixel (s : State) (idx : Nat) (f : Pixel → Pixel) : State := s.setPx (s.px.modify idx f)

/-- A per-channel setter (R176 to R179), with the write of its channel. -/
def setChannel (idx v : Word) (write : Pixel → Byte → Pixel) (s : State) : Result :=
  whenLive s <| whenIndex idx s <| whenChannels [v] s <|
    complete .ok 0#64 (s.updatePixel idx.toNat fun p => write p (channelOf v))

/-- A per-channel getter (R180), with the channel it reads. -/
def getChannel (idx : Word) (channel : Pixel → Byte) (s : State) : Result :=
  whenLive s <| whenIndex idx s <| complete .ok ((channel (s.pixelAt idx.toNat)).setWidth 64) s

/-- PX_SET (R175). -/
def execPxSet (idx r g b brt : Word) (s : State) : Result :=
  whenLive s <| whenIndex idx s <| whenChannels [r, g, b, brt] s <|
    complete .ok 0#64 (s.updatePixel idx.toNat fun _ => pixelOf r g b brt)

/-- PX_SET_R (R176). -/
def execPxSetR (idx v : Word) (s : State) : Result := setChannel idx v (fun p x => { p with r := x }) s

/-- PX_SET_G (R177). -/
def execPxSetG (idx v : Word) (s : State) : Result := setChannel idx v (fun p x => { p with g := x }) s

/-- PX_SET_B (R178). -/
def execPxSetB (idx v : Word) (s : State) : Result := setChannel idx v (fun p x => { p with b := x }) s

/-- PX_SET_BRT (R179). -/
def execPxSetBrt (idx v : Word) (s : State) : Result := setChannel idx v (fun p x => { p with w := x }) s

/-- PX_GET_R (R180). -/
def execPxGetR (idx : Word) (s : State) : Result := getChannel idx Pixel.r s

/-- PX_GET_G (R180). -/
def execPxGetG (idx : Word) (s : State) : Result := getChannel idx Pixel.g s

/-- PX_GET_B (R180). -/
def execPxGetB (idx : Word) (s : State) : Result := getChannel idx Pixel.b s

/-- PX_GET_BRT (R180). -/
def execPxGetBrt (idx : Word) (s : State) : Result := getChannel idx Pixel.w s

/-- PX_FILL (R181). -/
def execPxFill (r g b brt : Word) (s : State) : Result :=
  whenLive s <| whenChannels [r, g, b, brt] s <|
    complete .ok 0#64 (s.setPx (newBuffer s fun _ => pixelOf r g b brt))

/-- PX_PUSH_FRONT (R182): the old last pixel is discarded. -/
def execPxPushFront (r g b brt : Word) (s : State) : Result :=
  whenLive s <| whenChannels [r, g, b, brt] s <|
    complete .ok 0#64 (s.setPx (newBuffer s fun i => if i = 0 then pixelOf r g b brt else s.pixelAt (i - 1)))

/-- PX_PUSH_BACK (R183): the old first pixel is discarded. -/
def execPxPushBack (r g b brt : Word) (s : State) : Result :=
  whenLive s <| whenChannels [r, g, b, brt] s <|
    complete .ok 0#64
      (s.setPx (newBuffer s fun i => if i = s.config.pixelCount - 1 then pixelOf r g b brt else s.pixelAt (i + 1)))

/-- PX_ROT_L (R184). -/
def execPxRotL (s : State) : Result :=
  whenLive s <| complete .ok 0#64 (s.setPx (newBuffer s fun i => s.pixelAt ((i + 1) % s.config.pixelCount)))

/-- PX_ROT_R (R185). -/
def execPxRotR (s : State) : Result :=
  whenLive s <| complete .ok 0#64
    (s.setPx (newBuffer s fun i => s.pixelAt ((i + s.config.pixelCount - 1) % s.config.pixelCount)))

/-- PX_CLEAR (R187). -/
def execPxClear (s : State) : Result :=
  whenLive s <| complete .ok 0#64 (s.setPx (newBuffer s fun _ => Pixel.zero))

/-- unit(p) (R188). -/
def pixelUnit (p : Pixel) : List Byte := [p.r, p.g, p.b, p.w]

/-- `StripFrame()` (R188): one unit per pixel, front first. -/
def stripFrame (s : State) : List Byte := s.px.flatMap pixelUnit

/-- PX_SHOW (R189): one write of the strip frame, the answer's status, no state of the buffer changed. -/
def execPxShow (s : State) : Result :=
  whenLive s <| complete (statusOf s.nextAnswer) 0#64 (s.transportWrite .strip (stripFrame s))

/-- PX_TEARDOWN (R186). -/
def execPxTeardown (s : State) : Result := whenLive s <| complete .ok 0#64 (s.setLive false)

end Sys2Proof.Machine
end

