-- ==== Sys2Proof/Machine/Dispatch.lean ====
section
/-! DEFINITION. The meaning of every command: one arm per constructor of `Instr`, one direct call per arm. -/

namespace Sys2Proof.Machine

/-- One command, already taken from the command port. -/
def exec (i : Instr) (s : State) : Host.Outcome State Fault Refusal :=
  match i with
  | .cdcEnc w a0 a1 => Sys2Proof.Machine.execCdcEnc w a0 a1 s
  | .cdcEncAt w a0 a1 a2 => Sys2Proof.Machine.execCdcEncAt w a0 a1 a2 s
  | .cdcDec w => Sys2Proof.Machine.execCdcDec w s
  | .cdcDecAt w a0 => Sys2Proof.Machine.execCdcDecAt w a0 s
  | .cdcRewind => Sys2Proof.Machine.execCdcRewind s
  | .cdcGetCursor => Sys2Proof.Machine.execCdcGetCursor s
  | .blSetBc f ch1 ch2 => Sys2Proof.Machine.execBlSetBc f ch1 ch2 s
  | .blSetGs f ch1 ch2 => Sys2Proof.Machine.execBlSetGs f ch1 ch2 s
  | .blFlush => Sys2Proof.Machine.execBlFlush s
  | .blGetBc c => Sys2Proof.Machine.execBlGetBc c s
  | .blGetGs c => Sys2Proof.Machine.execBlGetGs c s
  | .blGetDirty => Sys2Proof.Machine.execBlGetDirty s
  | .pxSet idx r g b brt => Sys2Proof.Machine.execPxSet idx r g b brt s
  | .pxSetR idx v => Sys2Proof.Machine.execPxSetR idx v s
  | .pxSetG idx v => Sys2Proof.Machine.execPxSetG idx v s
  | .pxSetB idx v => Sys2Proof.Machine.execPxSetB idx v s
  | .pxSetBrt idx v => Sys2Proof.Machine.execPxSetBrt idx v s
  | .pxGetR idx => Sys2Proof.Machine.execPxGetR idx s
  | .pxGetG idx => Sys2Proof.Machine.execPxGetG idx s
  | .pxGetB idx => Sys2Proof.Machine.execPxGetB idx s
  | .pxGetBrt idx => Sys2Proof.Machine.execPxGetBrt idx s
  | .pxFill r g b brt => Sys2Proof.Machine.execPxFill r g b brt s
  | .pxPushFront r g b brt => Sys2Proof.Machine.execPxPushFront r g b brt s
  | .pxPushBack r g b brt => Sys2Proof.Machine.execPxPushBack r g b brt s
  | .pxRotL => Sys2Proof.Machine.execPxRotL s
  | .pxRotR => Sys2Proof.Machine.execPxRotR s
  | .pxClear => Sys2Proof.Machine.execPxClear s
  | .pxShow => Sys2Proof.Machine.execPxShow s
  | .pxTeardown => Sys2Proof.Machine.execPxTeardown s

end Sys2Proof.Machine
end

