-- ==== Sys2Proof/Machine/Step.lean ====
section
/-! DEFINITION. One step of the machine: the LFE takes the next whole command from its command port and performs it
(spec 10_state.md R20, R32), takes a reset between commands (70_reset_and_hazards.md R250, R251), or waits. -/

namespace Sys2Proof.Machine

/-- One step. A command runs on the state from whose command port its own words have been taken, and nothing else is
added around `exec`. -/
def step (s : State) : Host.Outcome State Fault Refusal :=
  match fetch s.inputs with
  | .waiting => .next s
  | .reset rest => .next (s.takeReset rest)
  | .command i rest => exec i (s.withInputs rest)
  | .reserved => .refused .reservedEncoding
  | .resetInside => .refused .resetInsideCommand

/-- `s` with the words of an opcode-table number put on the command port, before what the host does next (log 1, 18). -/
def State.withFetchWord (s : State) (nbits w : Nat) : State :=
  s.withInputs ((commandWords nbits w).map HostInput.word ++ s.inputs)

end Sys2Proof.Machine
end

