-- ==== Sys2Proof/Safety.lean ====
section
/-! DEFINITION. The terms the statements use: the state invariant (spec 10_state.md R37), the three families and the state
each owns (R35), which commands transmit (R33) and which read a value (30_encoding.md R81), and a state with one more
response. A safe run is one in which every step answers a next state. -/

namespace Sys2Proof.Machine

/-- What every state reached from reset satisfies: the parameters are in the ranges of 00_scope.md R8, the Pixel Buffer
has N entries (10_state.md R27), CUR ≤ CB (R29, R37), the codec buffer's list is in its canonical form and no address of
CB or more is written (R28). BC, GS and the pixel channels are in range by their types. -/
abbrev State.Inv (s : State) : Prop :=
  s.config.wellFormed = true ∧
  s.px.length = s.config.pixelCount ∧
  s.cur ≤ s.config.codecBufBytes ∧
  Memory.wf s.cbuf ∧
  ∀ cell ∈ s.cbuf, cell.1 < s.config.codecBufBytes

/-- The three parts of the LFE (00_scope.md R1). -/
inductive Family where
  | codec
  | backlight
  | pixel
deriving DecidableEq, Repr

/-- The part a command belongs to (30_encoding.md R78). -/
def familyOf : Instr → Family
  | .cdcEnc _ _ _ => .codec
  | .cdcEncAt _ _ _ _ => .codec
  | .cdcDec _ => .codec
  | .cdcDecAt _ _ => .codec
  | .cdcRewind => .codec
  | .cdcGetCursor => .codec
  | .blSetBc _ _ _ => .backlight
  | .blSetGs _ _ _ => .backlight
  | .blFlush => .backlight
  | .blGetBc _ => .backlight
  | .blGetGs _ => .backlight
  | .blGetDirty => .backlight
  | .pxSet _ _ _ _ _ => .pixel
  | .pxSetR _ _ => .pixel
  | .pxSetG _ _ => .pixel
  | .pxSetB _ _ => .pixel
  | .pxSetBrt _ _ => .pixel
  | .pxGetR _ => .pixel
  | .pxGetG _ => .pixel
  | .pxGetB _ => .pixel
  | .pxGetBrt _ => .pixel
  | .pxFill _ _ _ _ => .pixel
  | .pxPushFront _ _ _ _ => .pixel
  | .pxPushBack _ _ _ _ => .pixel
  | .pxRotL => .pixel
  | .pxRotR => .pixel
  | .pxClear => .pixel
  | .pxShow => .pixel
  | .pxTeardown => .pixel

/-- The state a part owns is the same in both states (10_state.md R35). -/
def sameOwned (f : Family) (s t : State) : Prop :=
  match f with
  | .codec => t.cbuf = s.cbuf ∧ t.cur = s.cur
  | .backlight => t.bc0 = s.bc0 ∧ t.bc1 = s.bc1 ∧ t.gs0 = s.gs0 ∧ t.gs1 = s.gs1 ∧ t.dirty = s.dirty
  | .pixel => t.px = s.px ∧ t.live = s.live

/-- Neither the parameters nor what the outside has put on the ports differ, nor what the LFE has given out on them. -/
def samePorts (s t : State) : Prop :=
  t.config = s.config ∧ t.inputs = s.inputs ∧ t.answers = s.answers ∧ t.draws = s.draws ∧
  t.responses = s.responses ∧ t.frames = s.frames

/-- The two outcomes of a command agree on everything its part `f` owns and on everything given out on the ports. -/
def sameOutcome (f : Family) : Result → Result → Prop
  | .next t, .next u => sameOwned f t u ∧ samePorts t u
  | .fault a, .fault b => a = b
  | .refused a, .refused b => a = b
  | _, _ => False

/-- `s` with one more response on the command port. -/
def State.answered (s : State) (status : BitVec 8) (data : DataWord) : State :=
  { s with responses := s.responses ++ [{ status := status, data := data }] }

/-- The command transmits when it comes to its effect, and to which target: BL_SET_BC and BL_SET_GS with F = 1, BL_FLUSH
and PX_SHOW (10_state.md R33). -/
def transmitsTo : Instr → Option Target
  | .cdcEnc _ _ _ => none
  | .cdcEncAt _ _ _ _ => none
  | .cdcDec _ => none
  | .cdcDecAt _ _ => none
  | .cdcRewind => none
  | .cdcGetCursor => none
  | .blSetBc f _ _ => if f then some .backlight else none
  | .blSetGs f _ _ => if f then some .backlight else none
  | .blFlush => some .backlight
  | .blGetBc _ => none
  | .blGetGs _ => none
  | .blGetDirty => none
  | .pxSet _ _ _ _ _ => none
  | .pxSetR _ _ => none
  | .pxSetG _ _ => none
  | .pxSetB _ _ => none
  | .pxSetBrt _ _ => none
  | .pxGetR _ => none
  | .pxGetG _ => none
  | .pxGetB _ => none
  | .pxGetBrt _ => none
  | .pxFill _ _ _ _ => none
  | .pxPushFront _ _ _ _ => none
  | .pxPushBack _ _ _ _ => none
  | .pxRotL => none
  | .pxRotR => none
  | .pxClear => none
  | .pxShow => some .strip
  | .pxTeardown => none

/-- The command reads a value into its response (30_encoding.md R81). -/
def readsValue : Instr → Bool
  | .cdcEnc _ _ _ => false
  | .cdcEncAt _ _ _ _ => false
  | .cdcDec _ => true
  | .cdcDecAt _ _ => true
  | .cdcRewind => false
  | .cdcGetCursor => true
  | .blSetBc _ _ _ => false
  | .blSetGs _ _ _ => false
  | .blFlush => false
  | .blGetBc _ => true
  | .blGetGs _ => true
  | .blGetDirty => true
  | .pxSet _ _ _ _ _ => false
  | .pxSetR _ _ => false
  | .pxSetG _ _ => false
  | .pxSetB _ _ => false
  | .pxSetBrt _ _ => false
  | .pxGetR _ => true
  | .pxGetG _ => true
  | .pxGetB _ => true
  | .pxGetBrt _ => true
  | .pxFill _ _ _ _ => false
  | .pxPushFront _ _ _ _ => false
  | .pxPushBack _ _ _ _ => false
  | .pxRotL => false
  | .pxRotR => false
  | .pxClear => false
  | .pxShow => false
  | .pxTeardown => false

/-- The index operand of a Pixel Buffer command that has one (42_pixel.md R172). -/
def pixelIndex : Instr → Option Word
  | .cdcEnc _ _ _ => none
  | .cdcEncAt _ _ _ _ => none
  | .cdcDec _ => none
  | .cdcDecAt _ _ => none
  | .cdcRewind => none
  | .cdcGetCursor => none
  | .blSetBc _ _ _ => none
  | .blSetGs _ _ _ => none
  | .blFlush => none
  | .blGetBc _ => none
  | .blGetGs _ => none
  | .blGetDirty => none
  | .pxSet idx _ _ _ _ => some idx
  | .pxSetR idx _ => some idx
  | .pxSetG idx _ => some idx
  | .pxSetB idx _ => some idx
  | .pxSetBrt idx _ => some idx
  | .pxGetR idx => some idx
  | .pxGetG idx => some idx
  | .pxGetB idx => some idx
  | .pxGetBrt idx => some idx
  | .pxFill _ _ _ _ => none
  | .pxPushFront _ _ _ _ => none
  | .pxPushBack _ _ _ _ => none
  | .pxRotL => none
  | .pxRotR => none
  | .pxClear => none
  | .pxShow => none
  | .pxTeardown => none

/-- The value operands of a Pixel Buffer command (42_pixel.md R173). -/
def pixelValues : Instr → List Word
  | .cdcEnc _ _ _ => []
  | .cdcEncAt _ _ _ _ => []
  | .cdcDec _ => []
  | .cdcDecAt _ _ => []
  | .cdcRewind => []
  | .cdcGetCursor => []
  | .blSetBc _ _ _ => []
  | .blSetGs _ _ _ => []
  | .blFlush => []
  | .blGetBc _ => []
  | .blGetGs _ => []
  | .blGetDirty => []
  | .pxSet _ r g b brt => [r, g, b, brt]
  | .pxSetR _ v => [v]
  | .pxSetG _ v => [v]
  | .pxSetB _ v => [v]
  | .pxSetBrt _ v => [v]
  | .pxGetR _ => []
  | .pxGetG _ => []
  | .pxGetB _ => []
  | .pxGetBrt _ => []
  | .pxFill r g b brt => [r, g, b, brt]
  | .pxPushFront r g b brt => [r, g, b, brt]
  | .pxPushBack r g b brt => [r, g, b, brt]
  | .pxRotL => []
  | .pxRotR => []
  | .pxClear => []
  | .pxShow => []
  | .pxTeardown => []

/-- The status code of a transport answer, as the tables of 60_exceptions.md R220 and R221 give it. -/
def answerCode : TransportAnswer → BitVec 8
  | .ok => 0x00#8
  | .openFailed => 0x03#8
  | .modeRejected => 0x04#8
  | .wordSizeRejected => 0x05#8
  | .speedRejected => 0x06#8
  | .writeFailed => 0x07#8

/-- The pixel of four channel values (42_pixel.md R174). -/
def pixelOfValues (r g b w : Nat) : Pixel :=
  { r := BitVec.ofNat 8 r, g := BitVec.ofNat 8 g, b := BitVec.ofNat 8 b, w := BitVec.ofNat 8 w }

/-- The spec's state at the values of the table of 10_state.md R36, for an instance with parameters `c`. -/
def HoldsResetValues (c : Config) (t : State) : Prop :=
  t.bc0.toNat = 0x7F ∧ t.bc1.toNat = 0x7F ∧ t.gs0.toNat = 0xFFFF ∧ t.gs1.toNat = 0xFFFF ∧
  t.dirty = c.dirtyReset ∧
  t.px.length = c.pixelCount ∧ (∀ p ∈ t.px, p.r = 0 ∧ p.g = 0 ∧ p.b = 0 ∧ p.w = 0) ∧
  t.live = true ∧ t.cur = 0 ∧
  (∀ a, readByte t.cbuf a = none ∧ written t.cbuf a = false) ∧
  t.config = c

/-- `n` times the same command, stopping at the first fault or refusal. -/
def execTimes (i : Instr) : Nat → State → Result
  | 0, s => .next s
  | n + 1, s =>
    match exec i s with
    | .next t => execTimes i n t
    | .fault r => .fault r
    | .refused r => .refused r

/-- The same state of an instance built with the other byte order `o`. -/
def State.withOrder (s : State) (o : ByteOrder) : State := { s with config := { s.config with buildOrder := o } }

/-- `withOrder` on the state a command answers, if it answers one. -/
def orderOutcome (o : ByteOrder) : Result → Result
  | .next t => .next (t.withOrder o)
  | .fault r => .fault r
  | .refused r => .refused r

end Sys2Proof.Machine
end

