-- ==== Sys2Proof/Certificates/Slice0/Obligations.lean ====
section
/-! DEFINITION. The statements about the LFE, each from numbered rules of spec/ (OBLIGATIONS.json lists them). Every
statement about a state is about every parameter setting too: the parameters are a field of the state that no step
changes (log 2). An answer of the transport is `nextAnswer`: any of the six (log 5). -/

open Sys2Proof Sys2Proof.Machine

/-! ### The command port and the encoding (30_encoding.md) -/

/-- The example words of R84 decode to the commands they stand for, and its refused words do not decode
(the spec marks R84 as derived from R72, R74, R76 and R78). -/
def Obligations.SpecExampleWordsDecode : Prop :=
  decode [0x00000010#32, 0x0000007F#32, 0x00000000#32] = .ok (.blSetBc false 127#32 0#32, []) ∧
  decode [0x00000110#32, 0x0000007F#32, 0x00000000#32] = .ok (.blSetBc true 127#32 0#32, []) ∧
  decode [0x00000111#32, 0x0000FFFF#32, 0x00000000#32] = .ok (.blSetGs true 65535#32 0#32, []) ∧
  decode [0x00000012#32] = .ok (.blFlush, []) ∧
  decode [0x00000113#32] = .ok (.blGetBc true, []) ∧
  decode [0x00000014#32] = .ok (.blGetGs false, []) ∧
  decode [0x00000101#32, 0x00001234#32, 0x00000000#32] = .ok (.cdcEnc 1#3 0x1234#32 0#32, []) ∧
  decode [0x00000401#32, 0x05060708#32, 0x01020304#32] = .ok (.cdcEnc 4#3 0x05060708#32 0x01020304#32, []) ∧
  decode [0x00000302#32, 0x11223344#32, 0x00000000#32, 0x00000004#32] =
    .ok (.cdcEncAt 3#3 0x11223344#32 0#32 4#32, []) ∧
  decode [0x00000203#32] = .ok (.cdcDec 2#3, []) ∧
  decode [0x00000004#32, 0x00000003#32] = .ok (.cdcDecAt 0#3 3#32, []) ∧
  decode [0x00000020#32, 0x00000002#32, 0x000000FF#32, 0x00000080#32, 0x00000000#32, 0x0000000A#32] =
    .ok (.pxSet 2#32 255#32 128#32 0#32 10#32, []) ∧
  decode [0x0000002A#32, 0x00000001#32, 0x00000000#32, 0x00000000#32, 0x00000000#32] =
    .ok (.pxPushFront 1#32 0#32 0#32 0#32, []) ∧
  decode [0x0000002C#32] = .ok (.pxRotL, []) ∧
  decode [0x0000002F#32] = .ok (.pxShow, []) ∧
  decode [0x00010012#32] = .error .reservedRsv ∧
  decode [0x00000112#32] = .error .reservedMod ∧
  decode [0x00000501#32, 0#32, 0#32] = .error .reservedWidth ∧
  decode [0x00000000#32] = .error .reservedOpcode

/-- When the words at the command port decode to a command, a step is that command, run on the state from whose port
exactly those words have been taken (R70, 10_state.md R32). -/
def Obligations.StepRunsDecodedCommand : Prop :=
  ∀ (ws : List Word) (i : Instr) (rest : List HostInput) (s : State),
    decode ws = .ok (i, []) → s.inputs = ws.map HostInput.word ++ rest →
    step s = exec i { s with inputs := rest }

/-- Decoding the words of a well-formed command, whatever words follow, gives that command and leaves those words. -/
def Obligations.DecodeInvertsEncode : Prop :=
  ∀ (i : Instr) (rest : List Word), i.wellFormed = true → decode (encode i ++ rest) = .ok (i, rest)

/-- Words that decode are the words of a well-formed command and what follows them: no bit of a word is dropped. -/
def Obligations.EncodeInvertsDecode : Prop :=
  ∀ (ws rest : List Word) (i : Instr), decode ws = .ok (i, rest) → i.wellFormed = true ∧ ws = encode i ++ rest

/-- An opcode word with RSV ≠ 0 (R73), a reserved OP (R79), a nonzero unused MOD bit (R74) or a reserved width code (R76)
is refused ReservedEncoding in every state; nothing is answered and nothing changes. THE MODEL'S CHOICE (log 11): it is
refused at once, whatever follows it and even where its operand words have not come (60_exceptions.md R226 puts this
check first, but no rule says whether the operand words are awaited). -/
def Obligations.ReservedEncodingsRefused : Prop :=
  ∀ (s : State) (word : Word) (rest : List HostInput), s.inputs = .word word :: rest →
    ∀ (op mod rsv : Nat), op = word.toNat % 2 ^ 8 → mod = word.toNat / 2 ^ 8 % 2 ^ 8 → rsv = word.toNat / 2 ^ 16 →
    (rsv ≠ 0 ∨
      (op = 0x00 ∨ (0x07 ≤ op ∧ op ≤ 0x0F) ∨ (0x16 ≤ op ∧ op ≤ 0x1F) ∨ (0x31 ≤ op ∧ op ≤ 0xFF)) ∨
      ((op = 0x10 ∨ op = 0x11 ∨ op = 0x13 ∨ op = 0x14) ∧ mod / 2 ≠ 0) ∨
      ((0x01 ≤ op ∧ op ≤ 0x04) ∧ (mod / 8 ≠ 0 ∨ mod % 8 = 5 ∨ mod % 8 = 6 ∨ mod % 8 = 7)) ∨
      ((op = 0x05 ∨ op = 0x06 ∨ op = 0x12 ∨ op = 0x15 ∨ (0x20 ≤ op ∧ op ≤ 0x30)) ∧ mod ≠ 0)) →
    step s = .refused .reservedEncoding

/-- THE MODEL'S CHOICE (log 11, 12): with no word on the command port, or with the first words of a command only, the LFE
waits and nothing changes; a reset among the words of one command is refused. -/
def Obligations.PartialCommandWaits : Prop :=
  (∀ s : State, s.inputs = [] → step s = .next s) ∧
  ∀ (s : State) (i : Instr) (k : Nat) (rest : List HostInput),
    i.wellFormed = true → 0 < k → k < (encode i).length →
    (s.inputs = ((encode i).take k).map HostInput.word → step s = .next s) ∧
    (s.inputs = ((encode i).take k).map HostInput.word ++ .reset :: rest → step s = .refused .resetInsideCommand)

/-! ### Reset and the invariant (10_state.md, 70_reset_and_hazards.md) -/

/-- After reset every piece of state holds the value of R36's table: in the reset state of every instance, and after a
reset taken between commands from any state, which sends no frame and gives no response (70_reset_and_hazards.md R250).
The model's inference (log 8): a reset takes itself alone from the command port, and leaves the host's later inputs, the
transport's coming answers and the count of those used as they were. -/
def Obligations.ResetLeavesTabulatedValues : Prop :=
  (∀ c : Config, HoldsResetValues c (State.resetOf c)) ∧
  ∀ (s : State) (rest : List HostInput), s.inputs = .reset :: rest →
    ∃ t, step s = .next t ∧ HoldsResetValues s.config t ∧
      t.inputs = rest ∧ t.answers = s.answers ∧ t.draws = s.draws ∧ t.responses = s.responses ∧ t.frames = s.frames

/-- The reset state of every instance whose parameters are in range meets the invariant, the sample instance's too. -/
def Obligations.ResetMeetsInvariant : Prop :=
  (∀ c : Config, c.wellFormed = true → (State.resetOf c).Inv) ∧ State.reset.Inv

/-- R37 from every state that meets the invariant: CUR ≤ CB, N pixels, the written bytes inside the codec buffer and its
list in canonical form, the parameters in range. -/
def Obligations.StepKeepsInvariant : Prop :=
  ∀ s t : State, s.Inv → step s = .next t → t.Inv

/-- No command and no reset changes the parameters (00_scope.md R9, 10_state.md R31, 70_reset_and_hazards.md R252). -/
def Obligations.StepKeepsConfiguration : Prop :=
  ∀ s t : State, step s = .next t → t.config = s.config

/-- No command changes N or the Pixel Buffer's length (10_state.md R27). -/
def Obligations.PixelBufferLengthIsFixed : Prop :=
  ∀ s t : State, s.px.length = s.config.pixelCount → step s = .next t →
    t.config.pixelCount = s.config.pixelCount ∧ t.px.length = s.px.length

/-! ### The three parts (10_state.md R35) -/

/-- A command of one part leaves the state of the other two as it was. -/
def Obligations.CommandsWriteOnlyTheirOwnPart : Prop :=
  ∀ (i : Instr) (s t : State) (f : Family), exec i s = .next t → familyOf i ≠ f → sameOwned f s t

/-- A command of one part reads no state of the other two: from two states that agree on its own part, the parameters and
the ports, it ends the same way, leaves its own part the same and gives out the same on the ports. -/
def Obligations.CommandsReadOnlyTheirOwnPart : Prop :=
  ∀ (i : Instr) (s u : State), sameOwned (familyOf i) s u → samePorts s u →
    sameOutcome (familyOf i) (exec i s) (exec i u)

/-- BUILD_ORDER governs the codec's commands only: any other command does the same in the instance built with the other
order, frames included (20_memory.md R51 to R53). -/
def Obligations.BuildOrderGovernsCodecOnly : Prop :=
  ∀ (i : Instr) (s : State) (o : ByteOrder), familyOf i ≠ .codec →
    exec i (s.withOrder o) = orderOutcome o (exec i s)

/-! ### Responses, frames, errors (30_encoding.md R80, R81; 10_state.md R33; 60_exceptions.md) -/

/-- A completed command gives exactly one response; its status is one of the codes 0x00 to 0x07, and its data is 0 unless
the status is OK and the command is one that reads a value. -/
def Obligations.EveryCompletedCommandAnswersOnce : Prop :=
  ∀ (i : Instr) (s t : State), exec i s = .next t →
    ∃ r : Response, t.responses = s.responses ++ [r] ∧ r.status.toNat ≤ 0x07 ∧
      (r.data ≠ 0#64 → r.status = 0x00#8 ∧ readsValue i = true)

/-- A command that transmits makes one transport write, to its target, which uses one answer, and any other command, and
a transmitting one rejected by a check, makes none (R33, 70_reset_and_hazards.md R263). -/
def Obligations.OnlyTransmittersWriteFrames : Prop :=
  ∀ (i : Instr) (s t : State), exec i s = .next t →
    (t.frames = s.frames ∧ t.answers = s.answers ∧ t.draws = s.draws ∧
      (transmitsTo i = none ∨ t.responses = s.responses ++ [{ status := 0x01#8, data := 0#64 }])) ∨
    ∃ target bytes, transmitsTo i = some target ∧ t.frames = s.frames ++ [{ target := target, bytes := bytes }] ∧
      t.answers = s.answers.tail ∧ t.draws = s.draws + 1

/-- The status of a command that wrote to the transport is its answer's, one to one (60_exceptions.md R221). -/
def Obligations.TransportAnswersSurfaceVerbatim : Prop :=
  ∀ (i : Instr) (s t : State), exec i s = .next t → t.frames ≠ s.frames →
    t.responses = s.responses ++ [{ status := answerCode s.nextAnswer, data := 0#64 }]

/-- An error status leaves all state as it was, with one exception: a flushing setter whose values are in range and whose
write fails keeps the new values and DIRTY = 1, and completes with the transport status (60_exceptions.md R224, which
the spec marks as derived from R140 to R142). -/
def Obligations.ErrorsLeaveStateUnchanged : Prop :=
  ∀ (i : Instr) (s t : State) (r : Response), exec i s = .next t → t.responses = s.responses ++ [r] → r.status ≠ 0x00#8 →
    sameOwned .codec s t ∧ sameOwned .pixel s t ∧
    (∀ ch1 ch2, i = .blSetBc true ch1 ch2 → ch1.toNat ≤ 127 → ch2.toNat ≤ 127 →
      t.bc0.toNat = ch1.toNat ∧ t.bc1.toNat = ch2.toNat ∧ t.gs0 = s.gs0 ∧ t.gs1 = s.gs1 ∧ t.dirty = true ∧
      r.status = answerCode s.nextAnswer) ∧
    (∀ ch1 ch2, i = .blSetGs true ch1 ch2 → ch1.toNat ≤ 65535 → ch2.toNat ≤ 65535 →
      t.gs0.toNat = ch1.toNat ∧ t.gs1.toNat = ch2.toNat ∧ t.bc0 = s.bc0 ∧ t.bc1 = s.bc1 ∧ t.dirty = true ∧
      r.status = answerCode s.nextAnswer) ∧
    ((¬ ∃ ch1 ch2, (i = .blSetBc true ch1 ch2 ∧ ch1.toNat ≤ 127 ∧ ch2.toNat ≤ 127) ∨
      (i = .blSetGs true ch1 ch2 ∧ ch1.toNat ≤ 65535 ∧ ch2.toNat ≤ 65535)) → sameOwned .backlight s t)

/-- A well-formed command is refused only as an encode whose value is 2^w or more (w < 64), as a codec access at a, the
cursor or the address operand, with a + w/8 > CB (an encode's value being in range), or as a Pixel Buffer command while
LIVE = 0; it faults only as a decode inside the buffer with some byte a + j (j < w/8) whose WRITTEN bit is 0; so a Backlight
command always completes (60_exceptions.md R222, R223, R226; 40_codec.md R103, R104). -/
def Obligations.StopsHaveTheirStatedCauses : Prop :=
  (∀ (i : Instr) (s : State) (r : Refusal), i.wellFormed = true → exec i s = .refused r →
    (r = .codecValueRange ∧ ∃ (code : BitVec 3) (w : Width) (a0 a1 : Word), widthOfCode code = some w ∧
      (i = .cdcEnc code a0 a1 ∨ ∃ a2, i = .cdcEncAt code a0 a1 a2) ∧
      widthBits w < 64 ∧ 2 ^ widthBits w ≤ a0.toNat + 2 ^ 32 * a1.toNat) ∨
    (r = .codecBounds ∧ ∃ (code : BitVec 3) (w : Width) (a : Nat), widthOfCode code = some w ∧
      ((∃ a0 a1 : Word, a0.toNat + 2 ^ 32 * a1.toNat < 2 ^ widthBits w ∧
          ((i = .cdcEnc code a0 a1 ∧ a = s.cur) ∨ ∃ a2, i = .cdcEncAt code a0 a1 a2 ∧ a = a2.toNat)) ∨
        (i = .cdcDec code ∧ a = s.cur) ∨ ∃ a0, i = .cdcDecAt code a0 ∧ a = a0.toNat) ∧
      s.config.codecBufBytes < a + widthBytes w) ∨
    (r = .pixelBufferTornDown ∧ familyOf i = .pixel ∧ s.live = false)) ∧
  (∀ (i : Instr) (s : State) (f : Fault), exec i s = .fault f →
    f = .unwrittenCodecByte ∧ ∃ (code : BitVec 3) (w : Width) (a j : Nat), widthOfCode code = some w ∧
      ((i = .cdcDec code ∧ a = s.cur) ∨ ∃ a0, i = .cdcDecAt code a0 ∧ a = a0.toNat) ∧
      a + widthBytes w ≤ s.config.codecBufBytes ∧ j < widthBytes w ∧ written s.cbuf (a + j) = false) ∧
  ∀ (i : Instr) (s : State), familyOf i = .backlight → ∃ t, exec i s = .next t

/-! ### Who writes which register (10_state.md R22 to R26) -/

/-- DIRTY after a command: set by a setter in range, then cleared by the answer OK of a transmission, else as it was. -/
def Obligations.DirtyFollowsSettersAndOkAnswers : Prop :=
  ∀ (i : Instr) (s t : State), exec i s = .next t →
    (∀ f ch1 ch2, i = .blSetBc f ch1 ch2 → ch1.toNat ≤ 127 → ch2.toNat ≤ 127 →
      t.dirty = !(f && decide (s.nextAnswer = .ok))) ∧
    (∀ f ch1 ch2, i = .blSetGs f ch1 ch2 → ch1.toNat ≤ 65535 → ch2.toNat ≤ 65535 →
      t.dirty = !(f && decide (s.nextAnswer = .ok))) ∧
    (i = .blFlush → t.dirty = (s.dirty && !decide (s.nextAnswer = .ok))) ∧
    (t.dirty ≠ s.dirty → i = .blFlush ∨ ∃ f ch1 ch2, (i = .blSetBc f ch1 ch2 ∧ ch1.toNat ≤ 127 ∧ ch2.toNat ≤ 127) ∨
      (i = .blSetGs f ch1 ch2 ∧ ch1.toNat ≤ 65535 ∧ ch2.toNat ≤ 65535))

/-- No command's behaviour but BL_GET_DIRTY's depends on DIRTY: from a state that differs in DIRTY alone, a command that
completes completes to a state that differs in DIRTY at most (R24). -/
def Obligations.DirtyReadOnlyByItsGetter : Prop :=
  ∀ (i : Instr) (s t : State) (d : Bool), i ≠ .blGetDirty → exec i s = .next t →
    ∃ d', exec i { s with dirty := d } = .next { t with dirty := d' }

/-- Only BL_SET_BC changes a brightness register and only BL_SET_GS a grayscale register (R22, R23); a reset apart, which
is no command. -/
def Obligations.LightRegistersWrittenOnlyBySetters : Prop :=
  ∀ (i : Instr) (s t : State), exec i s = .next t →
    ((t.bc0 ≠ s.bc0 ∨ t.bc1 ≠ s.bc1) → ∃ f ch1 ch2, i = .blSetBc f ch1 ch2) ∧
    ((t.gs0 ≠ s.gs0 ∨ t.gs1 ≠ s.gs1) → ∃ f ch1 ch2, i = .blSetGs f ch1 ch2)

/-- LIVE falls only by PX_TEARDOWN, and rises only in a step that takes a reset (R26). -/
def Obligations.LiveFallsByTeardownRisesByReset : Prop :=
  (∀ (i : Instr) (s t : State), exec i s = .next t → t.live ≠ s.live →
    i = .pxTeardown ∧ s.live = true ∧ t.live = false) ∧
  ∀ s t : State, step s = .next t → s.live = false → t.live = true → ∃ rest, s.inputs = .reset :: rest

/-! ### The Byte-Order Codec (40_codec.md) -/

/-- The two conversion functions are mutual inverses at every width and order, and the LITTLE bytes are the BIG bytes
reversed (R102; the spec marks two of the three as its own inferences: `ToBytes` of `FromBytes` as derived from R100 and
R101, and LITTLE as the reverse of BIG as derived from R100). -/
def Obligations.ConversionsAreInverse : Prop :=
  (∀ (o : ByteOrder) (w : Width) (v : Nat), v < 2 ^ widthBits w → fromBytes o w (toBytes o w v) = v) ∧
  (∀ (o : ByteOrder) (w : Width) (bytes : List Byte), bytes.length = widthBytes w →
    toBytes o w (fromBytes o w bytes) = bytes) ∧
  ∀ (w : Width) (v : Nat), v < 2 ^ widthBits w → toBytes .little w v = (toBytes .big w v).reverse

/-- Byte j of `ToBytes` is bits 8p+7 to 8p of the value, p counted from the far end for BIG and from the near end for
LITTLE (R100); `FromBytes` is the weighted sum of the bytes, Horner's form of it for BIG and for LITTLE, and is below
2^w (R101). -/
def Obligations.ConversionsPlaceEveryByte : Prop :=
  (∀ (w : Width) (v j k : Nat), j < widthBytes w → k < 8 →
    (∃ b, (toBytes .little w v)[j]? = some b ∧ b.getLsbD k = v.testBit (8 * j + k)) ∧
    (∃ b, (toBytes .big w v)[j]? = some b ∧ b.getLsbD k = v.testBit (8 * (widthBytes w - 1 - j) + k))) ∧
  (∀ (o : ByteOrder) (w : Width) (v : Nat), (toBytes o w v).length = widthBytes w) ∧
  (∀ (w : Width) (bytes : List Byte), bytes.length = widthBytes w →
    fromBytes .big w bytes = bytes.foldl (fun v b => v * 256 + b.toNat) 0 ∧
    fromBytes .little w bytes = bytes.foldr (fun b v => b.toNat + 256 * v) 0 ∧
    ∀ o, fromBytes o w bytes < 2 ^ widthBits w)

/-- CDC_ENC: a value in range, at a cursor that leaves room, is stored at the cursor in BUILD_ORDER, the cursor moves past
it, and every other byte and all other state stay (R105). -/
def Obligations.CdcEncStoresAtCursor : Prop :=
  ∀ (code : BitVec 3) (w : Width) (a0 a1 : Word) (s : State),
    widthOfCode code = some w → a0.toNat + 2 ^ 32 * a1.toNat < 2 ^ widthBits w →
    s.cur + widthBytes w ≤ s.config.codecBufBytes →
    ∃ m, exec (.cdcEnc code a0 a1) s =
        .next (State.answered { s with cbuf := m, cur := s.cur + widthBytes w } 0x00#8 0#64) ∧
      ∀ x, readByte m x =
        if s.cur ≤ x ∧ x < s.cur + widthBytes w
        then (toBytes s.config.buildOrder w (a0.toNat + 2 ^ 32 * a1.toNat))[x - s.cur]?
        else readByte s.cbuf x

/-- CDC_ENC_AT: the same at address A2, the cursor unmoved (R106). -/
def Obligations.CdcEncAtStoresAtAddress : Prop :=
  ∀ (code : BitVec 3) (w : Width) (a0 a1 a2 : Word) (s : State),
    widthOfCode code = some w → a0.toNat + 2 ^ 32 * a1.toNat < 2 ^ widthBits w →
    a2.toNat + widthBytes w ≤ s.config.codecBufBytes →
    ∃ m, exec (.cdcEncAt code a0 a1 a2) s = .next (State.answered { s with cbuf := m } 0x00#8 0#64) ∧
      ∀ x, readByte m x =
        if a2.toNat ≤ x ∧ x < a2.toNat + widthBytes w
        then (toBytes s.config.buildOrder w (a0.toNat + 2 ^ 32 * a1.toNat))[x - a2.toNat]?
        else readByte s.cbuf x

/-- CDC_DEC: where the w/8 bytes at the cursor are inside the buffer and written, their value in BUILD_ORDER is answered
and the cursor moves past them; no byte and no other state changes (R107). -/
def Obligations.CdcDecReadsAtCursor : Prop :=
  ∀ (code : BitVec 3) (w : Width) (bytes : List Byte) (s : State),
    widthOfCode code = some w → s.cur + widthBytes w ≤ s.config.codecBufBytes →
    bytes.length = widthBytes w → (∀ j, j < widthBytes w → readByte s.cbuf (s.cur + j) = bytes[j]?) →
    exec (.cdcDec code) s = .next (State.answered { s with cur := s.cur + widthBytes w } 0x00#8
      (BitVec.ofNat 64 (fromBytes s.config.buildOrder w bytes)))

/-- CDC_DEC_AT: the same at address A0, the cursor unmoved (R108); the bytes may come from encodes of any width
(20_memory.md R55). -/
def Obligations.CdcDecAtReadsAtAddress : Prop :=
  ∀ (code : BitVec 3) (w : Width) (a0 : Word) (bytes : List Byte) (s : State),
    widthOfCode code = some w → a0.toNat + widthBytes w ≤ s.config.codecBufBytes →
    bytes.length = widthBytes w → (∀ j, j < widthBytes w → readByte s.cbuf (a0.toNat + j) = bytes[j]?) →
    exec (.cdcDecAt code a0) s = .next (s.answered 0x00#8 (BitVec.ofNat 64 (fromBytes s.config.buildOrder w bytes)))

/-- CDC_REWIND is the one word 0x00000005; it sets the cursor to 0, answers OK and changes nothing else, and with the cursor
at 0 it changes no state (R109). -/
def Obligations.CursorRewinds : Prop :=
  encode .cdcRewind = [0x00000005#32] ∧
  (∀ s : State, exec .cdcRewind s = .next (State.answered { s with cur := 0 } 0x00#8 0#64)) ∧
  ∀ s : State, s.cur = 0 → exec .cdcRewind s = .next (s.answered 0x00#8 0#64)

/-- CDC_GET_CURSOR answers OK and changes no state; its data is the cursor, zero-extended, where the cursor fits 64 bits
(R110). For a larger cursor the data is a free value, THE MODEL'S CHOICE (log 10). -/
def Obligations.CursorIsRead : Prop :=
  ∀ s : State, ∃ d : DataWord, exec .cdcGetCursor s = .next (s.answered 0x00#8 d) ∧ (s.cur < 2 ^ 64 → d.toNat = s.cur)

/-- The codec's checks in their order (R103): a reserved width code, then (encodes) a value of 2^w or more, then bytes
beyond CB, the address sum not wrapping; each refused by name. -/
def Obligations.CodecContractRefusals : Prop :=
  (∀ (code : BitVec 3) (a0 a1 a2 : Word) (s : State), widthOfCode code = none →
    exec (.cdcEnc code a0 a1) s = .refused .reservedEncoding ∧
    exec (.cdcEncAt code a0 a1 a2) s = .refused .reservedEncoding ∧
    exec (.cdcDec code) s = .refused .reservedEncoding ∧
    exec (.cdcDecAt code a0) s = .refused .reservedEncoding) ∧
  (∀ (code : BitVec 3) (w : Width) (a0 a1 a2 : Word) (s : State),
    widthOfCode code = some w → 2 ^ widthBits w ≤ a0.toNat + 2 ^ 32 * a1.toNat →
    exec (.cdcEnc code a0 a1) s = .refused .codecValueRange ∧
    exec (.cdcEncAt code a0 a1 a2) s = .refused .codecValueRange) ∧
  (∀ (code : BitVec 3) (w : Width) (a0 a1 : Word) (s : State),
    widthOfCode code = some w → s.config.codecBufBytes < s.cur + widthBytes w →
    exec (.cdcDec code) s = .refused .codecBounds ∧
    (a0.toNat + 2 ^ 32 * a1.toNat < 2 ^ widthBits w → exec (.cdcEnc code a0 a1) s = .refused .codecBounds)) ∧
  (∀ (code : BitVec 3) (w : Width) (a0 a1 a2 : Word) (s : State),
    widthOfCode code = some w → s.config.codecBufBytes < a2.toNat + widthBytes w →
    exec (.cdcDecAt code a2) s = .refused .codecBounds ∧
    (a0.toNat + 2 ^ 32 * a1.toNat < 2 ^ widthBits w → exec (.cdcEncAt code a0 a1 a2) s = .refused .codecBounds))

/-- A decode inside the buffer that reads a byte with WRITTEN = 0 faults (R104). -/
def Obligations.UnwrittenByteFaults : Prop :=
  ∀ (code : BitVec 3) (w : Width) (a j : Nat) (s : State),
    widthOfCode code = some w → a + widthBytes w ≤ s.config.codecBufBytes → j < widthBytes w →
    written s.cbuf (a + j) = false →
    (a = s.cur → exec (.cdcDec code) s = .fault .unwrittenCodecByte) ∧
    ∀ a0 : Word, a0.toNat = a → exec (.cdcDecAt code a0) s = .fault .unwrittenCodecByte

/-- A value encoded through the command port is what a decode of the same width at the same place answers, in either
BUILD_ORDER: at an address, and at the cursor once it is back where the encode began. -/
def Obligations.EncodeThenDecodeAnswersValue : Prop :=
  ∀ (code : BitVec 3) (a0 a1 a2 : Word) (s t : State),
    (exec (.cdcEncAt code a0 a1 a2) s = .next t →
      exec (.cdcDecAt code a2) t = .next (t.answered 0x00#8 (a1 ++ a0))) ∧
    (exec (.cdcEnc code a0 a1) s = .next t →
      exec (.cdcDec code) { t with cur := s.cur } = .next (t.answered 0x00#8 (a1 ++ a0)))

/-- The two addressing modes are the same but for the cursor: CDC_ENC does what CDC_ENC_AT does at the cursor's address, and
moves the cursor (10_state.md R29, 40_codec.md R106). -/
def Obligations.EncodeModesAgree : Prop :=
  ∀ (code : BitVec 3) (a0 a1 a2 : Word) (s : State), a2.toNat = s.cur →
    (∀ t, exec (.cdcEncAt code a0 a1 a2) s = .next t →
      ∃ w, widthOfCode code = some w ∧ exec (.cdcEnc code a0 a1) s = .next { t with cur := s.cur + widthBytes w }) ∧
    ∀ r, exec (.cdcEncAt code a0 a1 a2) s = .refused r → exec (.cdcEnc code a0 a1) s = .refused r

/-- A codec command that completes completes with status OK: the codec has no error conditions (60_exceptions.md R220). -/
def Obligations.CodecNeverReportsErrors : Prop :=
  ∀ (i : Instr) (s t : State), familyOf i = .codec → exec i s = .next t →
    ∃ d, t.responses = s.responses ++ [{ status := 0x00#8, data := d }]

/-! ### The Backlight Encoder (41_backlight.md) -/

/-- The frame, read back by its fields: 28 bytes; the header's 32 bits, most significant byte first, hold WRCMD, FCTRL,
BC[0], BC[1] and seven zero bits; grayscale field k, most significant byte first in bytes 4+2k and 5+2k, is GS[0], GS[1],
then zeros (R131, R135, R136). The header's bit positions and which field carries which channel are the spec's own decisions
(92_eei_decisions.md D17, D20, D21; log 17). -/
def Obligations.BacklightFrameLayout : Prop :=
  ∀ s : State, (buildFrame s).length = 28 ∧
    (∃ b0 b1 b2 b3 : Byte, (buildFrame s).take 4 = [b0, b1, b2, b3] ∧
      ∃ h, h = b0.toNat * 2 ^ 24 + b1.toNat * 2 ^ 16 + b2.toNat * 2 ^ 8 + b3.toNat ∧
        h / 2 ^ 26 = s.config.wrcmd.toNat ∧ h / 2 ^ 21 % 2 ^ 5 = s.config.fctrl.toNat ∧
        h / 2 ^ 14 % 2 ^ 7 = s.bc0.toNat ∧ h / 2 ^ 7 % 2 ^ 7 = s.bc1.toNat ∧ h % 2 ^ 7 = 0) ∧
    ∀ k, k < 12 → ∃ hi lo : Byte, (buildFrame s)[4 + 2 * k]? = some hi ∧ (buildFrame s)[5 + 2 * k]? = some lo ∧
      hi.toNat * 2 ^ 8 + lo.toNat = if k = 0 then s.gs0.toNat else if k = 1 then s.gs1.toNat else 0

/-- The frame of the source's example state, with the spec's values of WRCMD and FCTRL (R148; the byte
values are the spec's own derivation, log 4, 17). -/
def Obligations.ExampleStateFrame : Prop :=
  ∀ s : State, s.bc0 = 127#7 → s.bc1 = 0#7 → s.gs0 = 65535#16 → s.gs1 = 0#16 →
    s.config.wrcmd = 0x25#6 → s.config.fctrl = 0b10110#5 →
    buildFrame s = [0x96#8, 0xDF#8, 0xC0#8, 0x00#8, 0xFF#8, 0xFF#8] ++ List.replicate 22 0x00#8

/-- BL_SET_BC (R140). Either value above 127: ValueOutOfRange with either F, nothing stored, nothing sent, DIRTY as it was.
Both in 0 to 127: both stored and DIRTY set; with F = 0 it answers OK and sends nothing, with F = 1 it sends the frame of the
new values once, answers the answer's status, and clears DIRTY if that is OK. Nothing else changes. -/
def Obligations.SetBrightnessStoresBoth : Prop :=
  (∀ ch1 ch2 : Word, encode (.blSetBc false ch1 ch2) = [0x00000010#32, ch1, ch2] ∧
    encode (.blSetBc true ch1 ch2) = [0x00000110#32, ch1, ch2]) ∧
  (∀ (f : Bool) (ch1 ch2 : Word) (s : State), 127 < ch1.toNat ∨ 127 < ch2.toNat →
    exec (.blSetBc f ch1 ch2) s = .next (s.answered 0x01#8 0#64)) ∧
  ∀ (ch1 ch2 : Word) (s t : State), ch1.toNat ≤ 127 → ch2.toNat ≤ 127 →
    t = { s with bc0 := BitVec.ofNat 7 ch1.toNat, bc1 := BitVec.ofNat 7 ch2.toNat, dirty := true } →
    exec (.blSetBc false ch1 ch2) s = .next (t.answered 0x00#8 0#64) ∧
    exec (.blSetBc true ch1 ch2) s = .next (State.answered { t with
      dirty := decide (s.nextAnswer ≠ .ok)
      answers := s.answers.tail
      draws := s.draws + 1
      frames := s.frames ++ [{ target := .backlight, bytes := buildFrame t }] } (answerCode s.nextAnswer) 0#64)

/-- BL_SET_GS (R141): the same for the grayscale registers, with the range 0 to 65535. -/
def Obligations.SetGrayscaleStoresBoth : Prop :=
  (∀ ch1 ch2 : Word, encode (.blSetGs false ch1 ch2) = [0x00000011#32, ch1, ch2] ∧
    encode (.blSetGs true ch1 ch2) = [0x00000111#32, ch1, ch2]) ∧
  (∀ (f : Bool) (ch1 ch2 : Word) (s : State), 65535 < ch1.toNat ∨ 65535 < ch2.toNat →
    exec (.blSetGs f ch1 ch2) s = .next (s.answered 0x01#8 0#64)) ∧
  ∀ (ch1 ch2 : Word) (s t : State), ch1.toNat ≤ 65535 → ch2.toNat ≤ 65535 →
    t = { s with gs0 := BitVec.ofNat 16 ch1.toNat, gs1 := BitVec.ofNat 16 ch2.toNat, dirty := true } →
    exec (.blSetGs false ch1 ch2) s = .next (t.answered 0x00#8 0#64) ∧
    exec (.blSetGs true ch1 ch2) s = .next (State.answered { t with
      dirty := decide (s.nextAnswer ≠ .ok)
      answers := s.answers.tail
      draws := s.draws + 1
      frames := s.frames ++ [{ target := .backlight, bytes := buildFrame t }] } (answerCode s.nextAnswer) 0#64)

/-- BL_FLUSH (R142, R143) sends the frame of the current state once, whatever DIRTY is, answers the answer's status, clears
DIRTY if that is OK and leaves it as it was otherwise. Nothing else changes. -/
def Obligations.FlushTransmitsCurrentState : Prop :=
  encode .blFlush = [0x00000012#32] ∧
  ∀ s : State, exec .blFlush s = .next (State.answered { s with
    dirty := s.dirty && decide (s.nextAnswer ≠ .ok)
    answers := s.answers.tail
    draws := s.draws + 1
    frames := s.frames ++ [{ target := .backlight, bytes := buildFrame s }] } (answerCode s.nextAnswer) 0#64)

/-- The Backlight getters answer OK with the register, zero-extended, and change no state (R144 to R146). -/
def Obligations.BacklightGettersAnswer : Prop :=
  (encode (.blGetBc false) = [0x00000013#32] ∧ encode (.blGetBc true) = [0x00000113#32] ∧
    encode (.blGetGs false) = [0x00000014#32] ∧ encode (.blGetGs true) = [0x00000114#32] ∧
    encode .blGetDirty = [0x00000015#32]) ∧
  ∀ s : State,
    exec (.blGetBc false) s = .next (s.answered 0x00#8 (BitVec.ofNat 64 s.bc0.toNat)) ∧
    exec (.blGetBc true) s = .next (s.answered 0x00#8 (BitVec.ofNat 64 s.bc1.toNat)) ∧
    exec (.blGetGs false) s = .next (s.answered 0x00#8 (BitVec.ofNat 64 s.gs0.toNat)) ∧
    exec (.blGetGs true) s = .next (s.answered 0x00#8 (BitVec.ofNat 64 s.gs1.toNat)) ∧
    exec .blGetDirty s = .next (s.answered 0x00#8 (if s.dirty then 1#64 else 0#64))

/-- A set that completes with a status other than ValueOutOfRange, followed by a get, returns the input; after
ValueOutOfRange both getters answer what they answered before (R147, which the spec marks as derived). -/
def Obligations.SetThenGetReturnsInput : Prop :=
  (∀ (f : Bool) (a b : Word) (s t : State) (r : Response),
    exec (.blSetBc f a b) s = .next t → t.responses = s.responses ++ [r] →
    (r.status ≠ 0x01#8 →
      exec (.blGetBc false) t = .next (t.answered 0x00#8 (a.setWidth 64)) ∧
      exec (.blGetBc true) t = .next (t.answered 0x00#8 (b.setWidth 64))) ∧
    (r.status = 0x01#8 → ∀ c, ∃ d, exec (.blGetBc c) s = .next (s.answered 0x00#8 d) ∧
      exec (.blGetBc c) t = .next (t.answered 0x00#8 d))) ∧
  ∀ (f : Bool) (a b : Word) (s t : State) (r : Response),
    exec (.blSetGs f a b) s = .next t → t.responses = s.responses ++ [r] →
    (r.status ≠ 0x01#8 →
      exec (.blGetGs false) t = .next (t.answered 0x00#8 (a.setWidth 64)) ∧
      exec (.blGetGs true) t = .next (t.answered 0x00#8 (b.setWidth 64))) ∧
    (r.status = 0x01#8 → ∀ c, ∃ d, exec (.blGetGs c) s = .next (s.answered 0x00#8 d) ∧
      exec (.blGetGs c) t = .next (t.answered 0x00#8 d))

/-- Issued again, BL_FLUSH and PX_SHOW send the identical bytes, whatever the transport answered the first time
(20_memory.md R61). -/
def Obligations.RetransmissionIsIdempotent : Prop :=
  ∀ (i : Instr) (s t u : State), i = .blFlush ∨ i = .pxShow → exec i s = .next t → exec i t = .next u →
    ∃ write : Transaction, t.frames = s.frames ++ [write] ∧ u.frames = s.frames ++ [write, write]

/-! ### The Pixel Buffer (42_pixel.md) -/

/-- While LIVE = 0 every Pixel Buffer command is refused, whatever its operands (R171). -/
def Obligations.TornDownBufferRefuses : Prop :=
  ∀ (i : Instr) (s : State), familyOf i = .pixel → s.live = false → exec i s = .refused .pixelBufferTornDown

/-- An index of N or more completes with IndexOutOfRange and changes nothing, whatever the values are (R170, R172). -/
def Obligations.IndexCheckedBeforeAll : Prop :=
  ∀ (i : Instr) (idx : Word) (s : State), s.live = true → pixelIndex i = some idx →
    s.config.pixelCount ≤ idx.toNat → exec i s = .next (s.answered 0x02#8 0#64)

/-- With a valid index, if the command has one, any value operand above 255 completes with ValueOutOfRange and changes
nothing (R170, R173). -/
def Obligations.ValuesCheckedBeforeWrite : Prop :=
  ∀ (i : Instr) (v : Word) (s : State), s.live = true →
    (∀ idx, pixelIndex i = some idx → idx.toNat < s.config.pixelCount) →
    v ∈ pixelValues i → 255 < v.toNat → exec i s = .next (s.answered 0x01#8 0#64)

/-- PX_SET writes the four channels of one pixel and nothing else (R175). -/
def Obligations.PxSetWritesOnePixel : Prop :=
  ∀ (idx r g b brt : Word) (s : State), s.live = true → s.px.length = s.config.pixelCount →
    idx.toNat < s.config.pixelCount → r.toNat ≤ 255 → g.toNat ≤ 255 → b.toNat ≤ 255 → brt.toNat ≤ 255 →
    ∃ new, exec (.pxSet idx r g b brt) s = .next (State.answered { s with px := new } 0x00#8 0#64) ∧
      ∀ j, new[j]? = if j = idx.toNat then some (pixelOfValues r.toNat g.toNat b.toNat brt.toNat) else s.px[j]?

/-- Each per-channel setter writes its channel of one pixel and leaves the pixel's other three channels, and all else, as
they were (R176 to R179). -/
def Obligations.ChannelSettersWriteOneChannel : Prop :=
  ∀ (idx v : Word) (p : Pixel) (s : State), s.live = true → idx.toNat < s.config.pixelCount →
    s.px[idx.toNat]? = some p → v.toNat ≤ 255 →
    ∀ (i : Instr) (p' : Pixel),
      ((i = .pxSetR idx v ∧ p' = { p with r := BitVec.ofNat 8 v.toNat }) ∨
       (i = .pxSetG idx v ∧ p' = { p with g := BitVec.ofNat 8 v.toNat }) ∨
       (i = .pxSetB idx v ∧ p' = { p with b := BitVec.ofNat 8 v.toNat }) ∨
       (i = .pxSetBrt idx v ∧ p' = { p with w := BitVec.ofNat 8 v.toNat })) →
      ∃ new, exec i s = .next (State.answered { s with px := new } 0x00#8 0#64) ∧
        ∀ j, new[j]? = if j = idx.toNat then some p' else s.px[j]?

/-- Each per-channel getter answers its channel of one pixel, zero-extended, and changes no state (R180). -/
def Obligations.ChannelGettersAnswer : Prop :=
  ∀ (idx : Word) (p : Pixel) (s : State), s.live = true → idx.toNat < s.config.pixelCount →
    s.px[idx.toNat]? = some p →
    exec (.pxGetR idx) s = .next (s.answered 0x00#8 (BitVec.ofNat 64 p.r.toNat)) ∧
    exec (.pxGetG idx) s = .next (s.answered 0x00#8 (BitVec.ofNat 64 p.g.toNat)) ∧
    exec (.pxGetB idx) s = .next (s.answered 0x00#8 (BitVec.ofNat 64 p.b.toNat)) ∧
    exec (.pxGetBrt idx) s = .next (s.answered 0x00#8 (BitVec.ofNat 64 p.w.toNat))

/-- PX_FILL makes every pixel the given one, PX_CLEAR makes every pixel Z; nothing else changes (R181, R187). -/
def Obligations.FillAndClearSetEveryPixel : Prop :=
  ∀ s : State, s.live = true →
    (∀ r g b brt : Word, r.toNat ≤ 255 → g.toNat ≤ 255 → b.toNat ≤ 255 → brt.toNat ≤ 255 →
      exec (.pxFill r g b brt) s = .next (State.answered { s with
        px := List.replicate s.config.pixelCount (pixelOfValues r.toNat g.toNat b.toNat brt.toNat) } 0x00#8 0#64)) ∧
    exec .pxClear s = .next (State.answered { s with
      px := List.replicate s.config.pixelCount (pixelOfValues 0 0 0 0) } 0x00#8 0#64)

/-- PX_CLEAR's outcome and effect are those of PX_FILL 0, 0, 0, 0 in every state, torn down or not (30_encoding.md R83,
42_pixel.md R187). -/
def Obligations.ClearEqualsFillZero : Prop :=
  ∀ s : State, exec .pxClear s = exec (.pxFill 0#32 0#32 0#32 0#32) s

/-- PX_PUSH_FRONT puts the new pixel at the front and drops the back one; PX_PUSH_BACK puts it at the back and drops the
front one; the others keep their order, and nothing else changes (R182, R183). -/
def Obligations.PushesInsertAndDrop : Prop :=
  ∀ (r g b brt : Word) (s : State), s.live = true → s.px.length = s.config.pixelCount → 1 ≤ s.config.pixelCount →
    r.toNat ≤ 255 → g.toNat ≤ 255 → b.toNat ≤ 255 → brt.toNat ≤ 255 →
    exec (.pxPushFront r g b brt) s = .next (State.answered { s with
      px := pixelOfValues r.toNat g.toNat b.toNat brt.toNat :: s.px.dropLast } 0x00#8 0#64) ∧
    exec (.pxPushBack r g b brt) s = .next (State.answered { s with
      px := s.px.tail ++ [pixelOfValues r.toNat g.toNat b.toNat brt.toNat] } 0x00#8 0#64)

/-- PX_ROT_L (R184) moves the front pixel to the back, PX_ROT_R (R185) the back pixel to the front; the others keep their
order, and nothing else changes; a buffer of one pixel stays as it was, and a torn-down buffer refuses both. -/
def Obligations.RotationsMoveOneEnd : Prop :=
  (encode .pxRotL = [0x0000002C#32] ∧ encode .pxRotR = [0x0000002D#32]) ∧
  (∀ s : State, s.live = false →
    exec .pxRotL s = .refused .pixelBufferTornDown ∧ exec .pxRotR s = .refused .pixelBufferTornDown) ∧
  ∀ s : State, s.live = true → s.px.length = s.config.pixelCount →
    exec .pxRotL s = .next (State.answered { s with px := s.px.tail ++ s.px.head?.toList } 0x00#8 0#64) ∧
    exec .pxRotR s = .next (State.answered { s with px := s.px.getLast?.toList ++ s.px.dropLast } 0x00#8 0#64) ∧
    (s.config.pixelCount = 1 → exec .pxRotL s = .next (s.answered 0x00#8 0#64) ∧
      exec .pxRotR s = .next (s.answered 0x00#8 0#64))

/-- Either rotation followed by the other restores the buffer, and a rotation is a permutation of it (R190). -/
def Obligations.RotationsAreInversePermutations : Prop :=
  ∀ s : State, s.live = true → s.px.length = s.config.pixelCount →
    (∃ t u, exec .pxRotL s = .next t ∧ t.px.Perm s.px ∧ exec .pxRotR t = .next u ∧ u.px = s.px) ∧
    ∃ t u, exec .pxRotR s = .next t ∧ t.px.Perm s.px ∧ exec .pxRotL t = .next u ∧ u.px = s.px

/-- N rotations of either kind restore the buffer (R184). -/
def Obligations.FullTurnRestoresBuffer : Prop :=
  ∀ s : State, s.live = true → s.px.length = s.config.pixelCount →
    (∃ t, execTimes .pxRotL s.config.pixelCount s = .next t ∧ t.px = s.px) ∧
    ∃ t, execTimes .pxRotR s.config.pixelCount s = .next t ∧ t.px = s.px

/-- The strip frame has 4 bytes per pixel and no other: bytes 4i to 4i+3 are red, green, blue and brightness of pixel i,
front first (R188; the order of the channels is the spec's own decision D27, log 17). -/
def Obligations.StripFrameLayout : Prop :=
  ∀ s : State, s.px.length = s.config.pixelCount →
    (stripFrame s).length = 4 * s.config.pixelCount ∧
    ∀ (i : Nat) (p : Pixel), s.px[i]? = some p →
      (stripFrame s)[4 * i]? = some p.r ∧ (stripFrame s)[4 * i + 1]? = some p.g ∧
      (stripFrame s)[4 * i + 2]? = some p.b ∧ (stripFrame s)[4 * i + 3]? = some p.w

/-- PX_SHOW (R189) sends the strip frame once, answers the answer's status and changes no state of any part, on any answer;
a torn-down buffer refuses it. -/
def Obligations.ShowTransmitsBuffer : Prop :=
  encode .pxShow = [0x0000002F#32] ∧
  (∀ s : State, s.live = false → exec .pxShow s = .refused .pixelBufferTornDown) ∧
  ∀ s : State, s.live = true → exec .pxShow s = .next (State.answered { s with
    answers := s.answers.tail
    draws := s.draws + 1
    frames := s.frames ++ [{ target := .strip, bytes := stripFrame s }] } (answerCode s.nextAnswer) 0#64)

/-- PX_TEARDOWN (R186) clears LIVE and changes nothing else; then every Pixel Buffer command, a second PX_TEARDOWN among
them, is refused, and Backlight and codec commands end as they would have, LIVE aside. -/
def Obligations.TeardownEndsTheBuffer : Prop :=
  encode .pxTeardown = [0x00000030#32] ∧
  (∀ s : State, s.live = false → exec .pxTeardown s = .refused .pixelBufferTornDown) ∧
  ∀ s t : State, s.live = true → t = State.answered { s with live := false } 0x00#8 0#64 →
    exec .pxTeardown s = .next t ∧
    ∀ i : Instr, (familyOf i = .pixel → exec i t = .refused .pixelBufferTornDown) ∧
      (familyOf i ≠ .pixel → sameOutcome (familyOf i) (exec i (s.answered 0x00#8 0#64)) (exec i t))
end

