-- ==== Sys2Proof/Laws/Decode.lean ====
section
/-! SUPPORT. What the fields of an opcode word are, and when the operand readers answer: the small lemmas from which the
agreement of decoder and encoder is assembled. -/

namespace Sys2Proof

/-- An opcode word as a number (R72). -/
theorem opcodeWord_toNat (op m : BitVec 8) : (opcodeWord op m).toNat = m.toNat * 256 + op.toNat := by
  show ((0#16 ++ m) ++ op : BitVec (16 + 8 + 8)).toNat = _
  rw [BitVec.toNat_append, BitVec.toNat_append, ← Nat.shiftLeft_add_eq_or_of_lt op.isLt]
  simp [Nat.shiftLeft_eq]

theorem opField_toNat (w : Word) : (opField w).toNat = w.toNat % 256 := by
  simp [opField]

theorem modField_toNat (w : Word) : (modField w).toNat = w.toNat / 256 % 256 := by
  simp [modField, Nat.shiftRight_eq_div_pow]

theorem rsvField_toNat (w : Word) : (rsvField w).toNat = w.toNat / 65536 := by
  have := w.isLt
  simp [rsvField, Nat.shiftRight_eq_div_pow]
  omega

@[simp] theorem opField_opcodeWord (op m : BitVec 8) : opField (opcodeWord op m) = op := by
  apply BitVec.eq_of_toNat_eq
  have := op.isLt
  rw [opField_toNat, opcodeWord_toNat]; omega

@[simp] theorem modField_opcodeWord (op m : BitVec 8) : modField (opcodeWord op m) = m := by
  apply BitVec.eq_of_toNat_eq
  have := op.isLt
  have := m.isLt
  rw [modField_toNat, opcodeWord_toNat]; omega

@[simp] theorem rsvField_opcodeWord (op m : BitVec 8) : rsvField (opcodeWord op m) = 0#16 := by
  apply BitVec.eq_of_toNat_eq
  have := op.isLt
  have := m.isLt
  rw [rsvField_toNat, opcodeWord_toNat]; simp; omega

@[simp] theorem widthField_modOfWidth (w : BitVec 3) : widthField (modOfWidth w) = w := by
  revert w; decide

@[simp] theorem lowBit_modOfBit (b : Bool) : lowBit (modOfBit b) = b := by
  revert b; decide

@[simp] theorem modOfWidth_unused (w : BitVec 3) : modOfWidth w &&& ModUse.width.unusedMask = 0#8 := by
  revert w; decide

@[simp] theorem modOfBit_unused_flush (b : Bool) : modOfBit b &&& ModUse.flush.unusedMask = 0#8 := by
  revert b; decide

@[simp] theorem modOfBit_unused_channel (b : Bool) : modOfBit b &&& ModUse.channel.unusedMask = 0#8 := by
  revert b; decide

/-- An opcode word is the one word with its three fields (R72). -/
theorem opcodeWord_of_fields (w : Word) (h : rsvField w = 0#16) : w = opcodeWord (opField w) (modField w) := by
  apply BitVec.eq_of_toNat_eq
  have h0 : w.toNat / 65536 = 0 := by rw [← rsvField_toNat, h]; rfl
  rw [opcodeWord_toNat, opField_toNat, modField_toNat]; omega

/-- A width code is assigned exactly when it selects a width (R76). -/
theorem widthCodeAssigned_iff (w : BitVec 3) : widthCodeAssigned w = true ↔ widthOfCode w ≠ none := by
  revert w; decide

theorem readOperands1_ok {f : Word → Instr} {ws rest : List Word} {i : Instr}
    (h : readOperands1 f ws = .ok (i, rest)) : ∃ a0, ws = a0 :: rest ∧ i = f a0 := by
  match ws, h with
  | a0 :: ws, h => simp [readOperands1] at h; exact ⟨a0, by simp [h.2], h.1.symm⟩

theorem readOperands2_ok {f : Word → Word → Instr} {ws rest : List Word} {i : Instr}
    (h : readOperands2 f ws = .ok (i, rest)) : ∃ a0 a1, ws = a0 :: a1 :: rest ∧ i = f a0 a1 := by
  match ws, h with
  | a0 :: a1 :: ws, h => simp [readOperands2] at h; exact ⟨a0, a1, by simp [h.2], h.1.symm⟩

theorem readOperands3_ok {f : Word → Word → Word → Instr} {ws rest : List Word} {i : Instr}
    (h : readOperands3 f ws = .ok (i, rest)) : ∃ a0 a1 a2, ws = a0 :: a1 :: a2 :: rest ∧ i = f a0 a1 a2 := by
  match ws, h with
  | a0 :: a1 :: a2 :: ws, h => simp [readOperands3] at h; exact ⟨a0, a1, a2, by simp [h.2], h.1.symm⟩

theorem readOperands4_ok {f : Word → Word → Word → Word → Instr} {ws rest : List Word} {i : Instr}
    (h : readOperands4 f ws = .ok (i, rest)) :
    ∃ a0 a1 a2 a3, ws = a0 :: a1 :: a2 :: a3 :: rest ∧ i = f a0 a1 a2 a3 := by
  match ws, h with
  | a0 :: a1 :: a2 :: a3 :: ws, h => simp [readOperands4] at h; exact ⟨a0, a1, a2, a3, by simp [h.2], h.1.symm⟩

theorem readOperands5_ok {f : Word → Word → Word → Word → Word → Instr} {ws rest : List Word} {i : Instr}
    (h : readOperands5 f ws = .ok (i, rest)) :
    ∃ a0 a1 a2 a3 a4, ws = a0 :: a1 :: a2 :: a3 :: a4 :: rest ∧ i = f a0 a1 a2 a3 a4 := by
  match ws, h with
  | a0 :: a1 :: a2 :: a3 :: a4 :: ws, h =>
    simp [readOperands5] at h; exact ⟨a0, a1, a2, a3, a4, by simp [h.2], h.1.symm⟩

end Sys2Proof
end

