-- ==== Sys2Proof/Laws/State.lean ====
section
/-! SUPPORT. One lemma per field per state update, so that no later proof unfolds a record update. -/

namespace Sys2Proof.Machine

variable (s : State)

/-! `setBc` writes BC and nothing else. -/

@[simp] theorem State.setBc_bc0 (b0 b1 : BitVec 7) : (s.setBc b0 b1).bc0 = b0 := rfl
@[simp] theorem State.setBc_bc1 (b0 b1 : BitVec 7) : (s.setBc b0 b1).bc1 = b1 := rfl
@[simp] theorem State.setBc_gs0 (b0 b1 : BitVec 7) : (s.setBc b0 b1).gs0 = s.gs0 := rfl
@[simp] theorem State.setBc_gs1 (b0 b1 : BitVec 7) : (s.setBc b0 b1).gs1 = s.gs1 := rfl
@[simp] theorem State.setBc_dirty (b0 b1 : BitVec 7) : (s.setBc b0 b1).dirty = s.dirty := rfl
@[simp] theorem State.setBc_px (b0 b1 : BitVec 7) : (s.setBc b0 b1).px = s.px := rfl
@[simp] theorem State.setBc_live (b0 b1 : BitVec 7) : (s.setBc b0 b1).live = s.live := rfl
@[simp] theorem State.setBc_cbuf (b0 b1 : BitVec 7) : (s.setBc b0 b1).cbuf = s.cbuf := rfl
@[simp] theorem State.setBc_cur (b0 b1 : BitVec 7) : (s.setBc b0 b1).cur = s.cur := rfl
@[simp] theorem State.setBc_config (b0 b1 : BitVec 7) : (s.setBc b0 b1).config = s.config := rfl
@[simp] theorem State.setBc_inputs (b0 b1 : BitVec 7) : (s.setBc b0 b1).inputs = s.inputs := rfl
@[simp] theorem State.setBc_answers (b0 b1 : BitVec 7) : (s.setBc b0 b1).answers = s.answers := rfl
@[simp] theorem State.setBc_draws (b0 b1 : BitVec 7) : (s.setBc b0 b1).draws = s.draws := rfl
@[simp] theorem State.setBc_responses (b0 b1 : BitVec 7) : (s.setBc b0 b1).responses = s.responses := rfl
@[simp] theorem State.setBc_frames (b0 b1 : BitVec 7) : (s.setBc b0 b1).frames = s.frames := rfl

/-! `setGs` writes GS and nothing else. -/

@[simp] theorem State.setGs_bc0 (g0 g1 : BitVec 16) : (s.setGs g0 g1).bc0 = s.bc0 := rfl
@[simp] theorem State.setGs_bc1 (g0 g1 : BitVec 16) : (s.setGs g0 g1).bc1 = s.bc1 := rfl
@[simp] theorem State.setGs_gs0 (g0 g1 : BitVec 16) : (s.setGs g0 g1).gs0 = g0 := rfl
@[simp] theorem State.setGs_gs1 (g0 g1 : BitVec 16) : (s.setGs g0 g1).gs1 = g1 := rfl
@[simp] theorem State.setGs_dirty (g0 g1 : BitVec 16) : (s.setGs g0 g1).dirty = s.dirty := rfl
@[simp] theorem State.setGs_px (g0 g1 : BitVec 16) : (s.setGs g0 g1).px = s.px := rfl
@[simp] theorem State.setGs_live (g0 g1 : BitVec 16) : (s.setGs g0 g1).live = s.live := rfl
@[simp] theorem State.setGs_cbuf (g0 g1 : BitVec 16) : (s.setGs g0 g1).cbuf = s.cbuf := rfl
@[simp] theorem State.setGs_cur (g0 g1 : BitVec 16) : (s.setGs g0 g1).cur = s.cur := rfl
@[simp] theorem State.setGs_config (g0 g1 : BitVec 16) : (s.setGs g0 g1).config = s.config := rfl
@[simp] theorem State.setGs_inputs (g0 g1 : BitVec 16) : (s.setGs g0 g1).inputs = s.inputs := rfl
@[simp] theorem State.setGs_answers (g0 g1 : BitVec 16) : (s.setGs g0 g1).answers = s.answers := rfl
@[simp] theorem State.setGs_draws (g0 g1 : BitVec 16) : (s.setGs g0 g1).draws = s.draws := rfl
@[simp] theorem State.setGs_responses (g0 g1 : BitVec 16) : (s.setGs g0 g1).responses = s.responses := rfl
@[simp] theorem State.setGs_frames (g0 g1 : BitVec 16) : (s.setGs g0 g1).frames = s.frames := rfl

/-! `setDirty` writes DIRTY and nothing else. -/

@[simp] theorem State.setDirty_bc0 (d : Bool) : (s.setDirty d).bc0 = s.bc0 := rfl
@[simp] theorem State.setDirty_bc1 (d : Bool) : (s.setDirty d).bc1 = s.bc1 := rfl
@[simp] theorem State.setDirty_gs0 (d : Bool) : (s.setDirty d).gs0 = s.gs0 := rfl
@[simp] theorem State.setDirty_gs1 (d : Bool) : (s.setDirty d).gs1 = s.gs1 := rfl
@[simp] theorem State.setDirty_dirty (d : Bool) : (s.setDirty d).dirty = d := rfl
@[simp] theorem State.setDirty_px (d : Bool) : (s.setDirty d).px = s.px := rfl
@[simp] theorem State.setDirty_live (d : Bool) : (s.setDirty d).live = s.live := rfl
@[simp] theorem State.setDirty_cbuf (d : Bool) : (s.setDirty d).cbuf = s.cbuf := rfl
@[simp] theorem State.setDirty_cur (d : Bool) : (s.setDirty d).cur = s.cur := rfl
@[simp] theorem State.setDirty_config (d : Bool) : (s.setDirty d).config = s.config := rfl
@[simp] theorem State.setDirty_inputs (d : Bool) : (s.setDirty d).inputs = s.inputs := rfl
@[simp] theorem State.setDirty_answers (d : Bool) : (s.setDirty d).answers = s.answers := rfl
@[simp] theorem State.setDirty_draws (d : Bool) : (s.setDirty d).draws = s.draws := rfl
@[simp] theorem State.setDirty_responses (d : Bool) : (s.setDirty d).responses = s.responses := rfl
@[simp] theorem State.setDirty_frames (d : Bool) : (s.setDirty d).frames = s.frames := rfl

/-! `setPx` writes PX and nothing else. -/

@[simp] theorem State.setPx_bc0 (new : List Pixel) : (s.setPx new).bc0 = s.bc0 := rfl
@[simp] theorem State.setPx_bc1 (new : List Pixel) : (s.setPx new).bc1 = s.bc1 := rfl
@[simp] theorem State.setPx_gs0 (new : List Pixel) : (s.setPx new).gs0 = s.gs0 := rfl
@[simp] theorem State.setPx_gs1 (new : List Pixel) : (s.setPx new).gs1 = s.gs1 := rfl
@[simp] theorem State.setPx_dirty (new : List Pixel) : (s.setPx new).dirty = s.dirty := rfl
@[simp] theorem State.setPx_px (new : List Pixel) : (s.setPx new).px = new := rfl
@[simp] theorem State.setPx_live (new : List Pixel) : (s.setPx new).live = s.live := rfl
@[simp] theorem State.setPx_cbuf (new : List Pixel) : (s.setPx new).cbuf = s.cbuf := rfl
@[simp] theorem State.setPx_cur (new : List Pixel) : (s.setPx new).cur = s.cur := rfl
@[simp] theorem State.setPx_config (new : List Pixel) : (s.setPx new).config = s.config := rfl
@[simp] theorem State.setPx_inputs (new : List Pixel) : (s.setPx new).inputs = s.inputs := rfl
@[simp] theorem State.setPx_answers (new : List Pixel) : (s.setPx new).answers = s.answers := rfl
@[simp] theorem State.setPx_draws (new : List Pixel) : (s.setPx new).draws = s.draws := rfl
@[simp] theorem State.setPx_responses (new : List Pixel) : (s.setPx new).responses = s.responses := rfl
@[simp] theorem State.setPx_frames (new : List Pixel) : (s.setPx new).frames = s.frames := rfl

/-! `setLive` writes LIVE and nothing else. -/

@[simp] theorem State.setLive_bc0 (l : Bool) : (s.setLive l).bc0 = s.bc0 := rfl
@[simp] theorem State.setLive_bc1 (l : Bool) : (s.setLive l).bc1 = s.bc1 := rfl
@[simp] theorem State.setLive_gs0 (l : Bool) : (s.setLive l).gs0 = s.gs0 := rfl
@[simp] theorem State.setLive_gs1 (l : Bool) : (s.setLive l).gs1 = s.gs1 := rfl
@[simp] theorem State.setLive_dirty (l : Bool) : (s.setLive l).dirty = s.dirty := rfl
@[simp] theorem State.setLive_px (l : Bool) : (s.setLive l).px = s.px := rfl
@[simp] theorem State.setLive_live (l : Bool) : (s.setLive l).live = l := rfl
@[simp] theorem State.setLive_cbuf (l : Bool) : (s.setLive l).cbuf = s.cbuf := rfl
@[simp] theorem State.setLive_cur (l : Bool) : (s.setLive l).cur = s.cur := rfl
@[simp] theorem State.setLive_config (l : Bool) : (s.setLive l).config = s.config := rfl
@[simp] theorem State.setLive_inputs (l : Bool) : (s.setLive l).inputs = s.inputs := rfl
@[simp] theorem State.setLive_answers (l : Bool) : (s.setLive l).answers = s.answers := rfl
@[simp] theorem State.setLive_draws (l : Bool) : (s.setLive l).draws = s.draws := rfl
@[simp] theorem State.setLive_responses (l : Bool) : (s.setLive l).responses = s.responses := rfl
@[simp] theorem State.setLive_frames (l : Bool) : (s.setLive l).frames = s.frames := rfl

/-! `setCbuf` writes the codec buffer and nothing else. -/

@[simp] theorem State.setCbuf_bc0 (m : List Host.Cell) : (s.setCbuf m).bc0 = s.bc0 := rfl
@[simp] theorem State.setCbuf_bc1 (m : List Host.Cell) : (s.setCbuf m).bc1 = s.bc1 := rfl
@[simp] theorem State.setCbuf_gs0 (m : List Host.Cell) : (s.setCbuf m).gs0 = s.gs0 := rfl
@[simp] theorem State.setCbuf_gs1 (m : List Host.Cell) : (s.setCbuf m).gs1 = s.gs1 := rfl
@[simp] theorem State.setCbuf_dirty (m : List Host.Cell) : (s.setCbuf m).dirty = s.dirty := rfl
@[simp] theorem State.setCbuf_px (m : List Host.Cell) : (s.setCbuf m).px = s.px := rfl
@[simp] theorem State.setCbuf_live (m : List Host.Cell) : (s.setCbuf m).live = s.live := rfl
@[simp] theorem State.setCbuf_cbuf (m : List Host.Cell) : (s.setCbuf m).cbuf = m := rfl
@[simp] theorem State.setCbuf_cur (m : List Host.Cell) : (s.setCbuf m).cur = s.cur := rfl
@[simp] theorem State.setCbuf_config (m : List Host.Cell) : (s.setCbuf m).config = s.config := rfl
@[simp] theorem State.setCbuf_inputs (m : List Host.Cell) : (s.setCbuf m).inputs = s.inputs := rfl
@[simp] theorem State.setCbuf_answers (m : List Host.Cell) : (s.setCbuf m).answers = s.answers := rfl
@[simp] theorem State.setCbuf_draws (m : List Host.Cell) : (s.setCbuf m).draws = s.draws := rfl
@[simp] theorem State.setCbuf_responses (m : List Host.Cell) : (s.setCbuf m).responses = s.responses := rfl
@[simp] theorem State.setCbuf_frames (m : List Host.Cell) : (s.setCbuf m).frames = s.frames := rfl

/-! `setCur` writes CUR and nothing else. -/

@[simp] theorem State.setCur_bc0 (n : Nat) : (s.setCur n).bc0 = s.bc0 := rfl
@[simp] theorem State.setCur_bc1 (n : Nat) : (s.setCur n).bc1 = s.bc1 := rfl
@[simp] theorem State.setCur_gs0 (n : Nat) : (s.setCur n).gs0 = s.gs0 := rfl
@[simp] theorem State.setCur_gs1 (n : Nat) : (s.setCur n).gs1 = s.gs1 := rfl
@[simp] theorem State.setCur_dirty (n : Nat) : (s.setCur n).dirty = s.dirty := rfl
@[simp] theorem State.setCur_px (n : Nat) : (s.setCur n).px = s.px := rfl
@[simp] theorem State.setCur_live (n : Nat) : (s.setCur n).live = s.live := rfl
@[simp] theorem State.setCur_cbuf (n : Nat) : (s.setCur n).cbuf = s.cbuf := rfl
@[simp] theorem State.setCur_cur (n : Nat) : (s.setCur n).cur = n := rfl
@[simp] theorem State.setCur_config (n : Nat) : (s.setCur n).config = s.config := rfl
@[simp] theorem State.setCur_inputs (n : Nat) : (s.setCur n).inputs = s.inputs := rfl
@[simp] theorem State.setCur_answers (n : Nat) : (s.setCur n).answers = s.answers := rfl
@[simp] theorem State.setCur_draws (n : Nat) : (s.setCur n).draws = s.draws := rfl
@[simp] theorem State.setCur_responses (n : Nat) : (s.setCur n).responses = s.responses := rfl
@[simp] theorem State.setCur_frames (n : Nat) : (s.setCur n).frames = s.frames := rfl

/-! `respond` adds one response and changes nothing else. -/

@[simp] theorem State.respond_bc0 (st : Status) (data : DataWord) : (s.respond st data).bc0 = s.bc0 := rfl
@[simp] theorem State.respond_bc1 (st : Status) (data : DataWord) : (s.respond st data).bc1 = s.bc1 := rfl
@[simp] theorem State.respond_gs0 (st : Status) (data : DataWord) : (s.respond st data).gs0 = s.gs0 := rfl
@[simp] theorem State.respond_gs1 (st : Status) (data : DataWord) : (s.respond st data).gs1 = s.gs1 := rfl
@[simp] theorem State.respond_dirty (st : Status) (data : DataWord) : (s.respond st data).dirty = s.dirty := rfl
@[simp] theorem State.respond_px (st : Status) (data : DataWord) : (s.respond st data).px = s.px := rfl
@[simp] theorem State.respond_live (st : Status) (data : DataWord) : (s.respond st data).live = s.live := rfl
@[simp] theorem State.respond_cbuf (st : Status) (data : DataWord) : (s.respond st data).cbuf = s.cbuf := rfl
@[simp] theorem State.respond_cur (st : Status) (data : DataWord) : (s.respond st data).cur = s.cur := rfl
@[simp] theorem State.respond_config (st : Status) (data : DataWord) : (s.respond st data).config = s.config := rfl
@[simp] theorem State.respond_inputs (st : Status) (data : DataWord) : (s.respond st data).inputs = s.inputs := rfl
@[simp] theorem State.respond_answers (st : Status) (data : DataWord) : (s.respond st data).answers = s.answers := rfl
@[simp] theorem State.respond_draws (st : Status) (data : DataWord) : (s.respond st data).draws = s.draws := rfl
@[simp] theorem State.respond_responses (st : Status) (data : DataWord) : (s.respond st data).responses = s.responses ++ [{ status := st.code, data := data }] := rfl
@[simp] theorem State.respond_frames (st : Status) (data : DataWord) : (s.respond st data).frames = s.frames := rfl

/-! `transportWrite` uses the transport port and changes nothing else. -/

@[simp] theorem State.transportWrite_bc0 (tg : Target) (bytes : List Byte) : (s.transportWrite tg bytes).bc0 = s.bc0 := rfl
@[simp] theorem State.transportWrite_bc1 (tg : Target) (bytes : List Byte) : (s.transportWrite tg bytes).bc1 = s.bc1 := rfl
@[simp] theorem State.transportWrite_gs0 (tg : Target) (bytes : List Byte) : (s.transportWrite tg bytes).gs0 = s.gs0 := rfl
@[simp] theorem State.transportWrite_gs1 (tg : Target) (bytes : List Byte) : (s.transportWrite tg bytes).gs1 = s.gs1 := rfl
@[simp] theorem State.transportWrite_dirty (tg : Target) (bytes : List Byte) : (s.transportWrite tg bytes).dirty = s.dirty := rfl
@[simp] theorem State.transportWrite_px (tg : Target) (bytes : List Byte) : (s.transportWrite tg bytes).px = s.px := rfl
@[simp] theorem State.transportWrite_live (tg : Target) (bytes : List Byte) : (s.transportWrite tg bytes).live = s.live := rfl
@[simp] theorem State.transportWrite_cbuf (tg : Target) (bytes : List Byte) : (s.transportWrite tg bytes).cbuf = s.cbuf := rfl
@[simp] theorem State.transportWrite_cur (tg : Target) (bytes : List Byte) : (s.transportWrite tg bytes).cur = s.cur := rfl
@[simp] theorem State.transportWrite_config (tg : Target) (bytes : List Byte) : (s.transportWrite tg bytes).config = s.config := rfl
@[simp] theorem State.transportWrite_inputs (tg : Target) (bytes : List Byte) : (s.transportWrite tg bytes).inputs = s.inputs := rfl
@[simp] theorem State.transportWrite_answers (tg : Target) (bytes : List Byte) : (s.transportWrite tg bytes).answers = s.answers.tail := rfl
@[simp] theorem State.transportWrite_draws (tg : Target) (bytes : List Byte) : (s.transportWrite tg bytes).draws = s.draws + 1 := rfl
@[simp] theorem State.transportWrite_responses (tg : Target) (bytes : List Byte) : (s.transportWrite tg bytes).responses = s.responses := rfl
@[simp] theorem State.transportWrite_frames (tg : Target) (bytes : List Byte) : (s.transportWrite tg bytes).frames = s.frames ++ [{ target := tg, bytes := bytes }] := rfl

/-! `withInputs` changes what waits on the command port and nothing else. -/

@[simp] theorem State.withInputs_bc0 (rest : List HostInput) : (s.withInputs rest).bc0 = s.bc0 := rfl
@[simp] theorem State.withInputs_bc1 (rest : List HostInput) : (s.withInputs rest).bc1 = s.bc1 := rfl
@[simp] theorem State.withInputs_gs0 (rest : List HostInput) : (s.withInputs rest).gs0 = s.gs0 := rfl
@[simp] theorem State.withInputs_gs1 (rest : List HostInput) : (s.withInputs rest).gs1 = s.gs1 := rfl
@[simp] theorem State.withInputs_dirty (rest : List HostInput) : (s.withInputs rest).dirty = s.dirty := rfl
@[simp] theorem State.withInputs_px (rest : List HostInput) : (s.withInputs rest).px = s.px := rfl
@[simp] theorem State.withInputs_live (rest : List HostInput) : (s.withInputs rest).live = s.live := rfl
@[simp] theorem State.withInputs_cbuf (rest : List HostInput) : (s.withInputs rest).cbuf = s.cbuf := rfl
@[simp] theorem State.withInputs_cur (rest : List HostInput) : (s.withInputs rest).cur = s.cur := rfl
@[simp] theorem State.withInputs_config (rest : List HostInput) : (s.withInputs rest).config = s.config := rfl
@[simp] theorem State.withInputs_inputs (rest : List HostInput) : (s.withInputs rest).inputs = rest := rfl
@[simp] theorem State.withInputs_answers (rest : List HostInput) : (s.withInputs rest).answers = s.answers := rfl
@[simp] theorem State.withInputs_draws (rest : List HostInput) : (s.withInputs rest).draws = s.draws := rfl
@[simp] theorem State.withInputs_responses (rest : List HostInput) : (s.withInputs rest).responses = s.responses := rfl
@[simp] theorem State.withInputs_frames (rest : List HostInput) : (s.withInputs rest).frames = s.frames := rfl

/-! `answered` adds one response and changes nothing else. -/

@[simp] theorem State.answered_bc0 (status : BitVec 8) (data : DataWord) : (s.answered status data).bc0 = s.bc0 := rfl
@[simp] theorem State.answered_bc1 (status : BitVec 8) (data : DataWord) : (s.answered status data).bc1 = s.bc1 := rfl
@[simp] theorem State.answered_gs0 (status : BitVec 8) (data : DataWord) : (s.answered status data).gs0 = s.gs0 := rfl
@[simp] theorem State.answered_gs1 (status : BitVec 8) (data : DataWord) : (s.answered status data).gs1 = s.gs1 := rfl
@[simp] theorem State.answered_dirty (status : BitVec 8) (data : DataWord) : (s.answered status data).dirty = s.dirty := rfl
@[simp] theorem State.answered_px (status : BitVec 8) (data : DataWord) : (s.answered status data).px = s.px := rfl
@[simp] theorem State.answered_live (status : BitVec 8) (data : DataWord) : (s.answered status data).live = s.live := rfl
@[simp] theorem State.answered_cbuf (status : BitVec 8) (data : DataWord) : (s.answered status data).cbuf = s.cbuf := rfl
@[simp] theorem State.answered_cur (status : BitVec 8) (data : DataWord) : (s.answered status data).cur = s.cur := rfl
@[simp] theorem State.answered_config (status : BitVec 8) (data : DataWord) : (s.answered status data).config = s.config := rfl
@[simp] theorem State.answered_inputs (status : BitVec 8) (data : DataWord) : (s.answered status data).inputs = s.inputs := rfl
@[simp] theorem State.answered_answers (status : BitVec 8) (data : DataWord) : (s.answered status data).answers = s.answers := rfl
@[simp] theorem State.answered_draws (status : BitVec 8) (data : DataWord) : (s.answered status data).draws = s.draws := rfl
@[simp] theorem State.answered_responses (status : BitVec 8) (data : DataWord) : (s.answered status data).responses = s.responses ++ [{ status := status, data := data }] := rfl
@[simp] theorem State.answered_frames (status : BitVec 8) (data : DataWord) : (s.answered status data).frames = s.frames := rfl

/-! The reset event: R36's values, the parameters and the ports' other data kept. -/

@[simp] theorem State.takeReset_bc0 (rest : List HostInput) : (s.takeReset rest).bc0 = 127#7 := rfl
@[simp] theorem State.takeReset_bc1 (rest : List HostInput) : (s.takeReset rest).bc1 = 127#7 := rfl
@[simp] theorem State.takeReset_gs0 (rest : List HostInput) : (s.takeReset rest).gs0 = 65535#16 := rfl
@[simp] theorem State.takeReset_gs1 (rest : List HostInput) : (s.takeReset rest).gs1 = 65535#16 := rfl
@[simp] theorem State.takeReset_dirty (rest : List HostInput) : (s.takeReset rest).dirty = s.config.dirtyReset := rfl
@[simp] theorem State.takeReset_px (rest : List HostInput) : (s.takeReset rest).px = List.replicate s.config.pixelCount Pixel.zero := rfl
@[simp] theorem State.takeReset_live (rest : List HostInput) : (s.takeReset rest).live = true := rfl
@[simp] theorem State.takeReset_cbuf (rest : List HostInput) : (s.takeReset rest).cbuf = [] := rfl
@[simp] theorem State.takeReset_cur (rest : List HostInput) : (s.takeReset rest).cur = 0 := rfl
@[simp] theorem State.takeReset_config (rest : List HostInput) : (s.takeReset rest).config = s.config := rfl
@[simp] theorem State.takeReset_inputs (rest : List HostInput) : (s.takeReset rest).inputs = rest := rfl
@[simp] theorem State.takeReset_answers (rest : List HostInput) : (s.takeReset rest).answers = s.answers := rfl
@[simp] theorem State.takeReset_draws (rest : List HostInput) : (s.takeReset rest).draws = s.draws := rfl
@[simp] theorem State.takeReset_responses (rest : List HostInput) : (s.takeReset rest).responses = s.responses := rfl
@[simp] theorem State.takeReset_frames (rest : List HostInput) : (s.takeReset rest).frames = s.frames := rfl

variable (c : Config)

/-! The reset state of the instance with parameters `c`. -/

@[simp] theorem State.resetOf_bc0 : (State.resetOf c).bc0 = 127#7 := rfl
@[simp] theorem State.resetOf_bc1 : (State.resetOf c).bc1 = 127#7 := rfl
@[simp] theorem State.resetOf_gs0 : (State.resetOf c).gs0 = 65535#16 := rfl
@[simp] theorem State.resetOf_gs1 : (State.resetOf c).gs1 = 65535#16 := rfl
@[simp] theorem State.resetOf_dirty : (State.resetOf c).dirty = c.dirtyReset := rfl
@[simp] theorem State.resetOf_px : (State.resetOf c).px = List.replicate c.pixelCount Pixel.zero := rfl
@[simp] theorem State.resetOf_live : (State.resetOf c).live = true := rfl
@[simp] theorem State.resetOf_cbuf : (State.resetOf c).cbuf = [] := rfl
@[simp] theorem State.resetOf_cur : (State.resetOf c).cur = 0 := rfl
@[simp] theorem State.resetOf_config : (State.resetOf c).config = c := rfl
@[simp] theorem State.resetOf_inputs : (State.resetOf c).inputs = [] := rfl
@[simp] theorem State.resetOf_answers : (State.resetOf c).answers = [] := rfl
@[simp] theorem State.resetOf_draws : (State.resetOf c).draws = 0 := rfl
@[simp] theorem State.resetOf_responses : (State.resetOf c).responses = [] := rfl
@[simp] theorem State.resetOf_frames : (State.resetOf c).frames = [] := rfl

end Sys2Proof.Machine
end

