-- ==== Sys2Proof/Laws/Ops.lean ====
section
/-! SUPPORT. What each shared operation can do, once: the codec buffer's bytes, the command port, and the checks that
stand before a command's effect. Proofs about commands cite these and unfold no operation. -/

namespace Sys2Proof.Machine

/-! ### The codec buffer -/

/-- A byte just written is read back. -/
@[simp] theorem readByte_writeByte_same (m : List Host.Cell) (a : Nat) (b : Byte) :
    readByte (writeByte m a b) a = some b := by
  induction m with
  | nil => simp [writeByte, readByte]
  | cons c m ih =>
    obtain ⟨k, v⟩ := c
    by_cases hlt : a < k
    · simp [writeByte, hlt, readByte]
    · by_cases heq : a = k
      · simp [writeByte, heq, readByte]
      · simp [writeByte, hlt, heq, readByte, ih]

/-- A write leaves every other byte alone. -/
theorem readByte_writeByte_other (m : List Host.Cell) {a x : Nat} (b : Byte) (h : x ≠ a) :
    readByte (writeByte m a b) x = readByte m x := by
  induction m with
  | nil => simp [writeByte, readByte, h]
  | cons c m ih =>
    obtain ⟨k, v⟩ := c
    by_cases hlt : a < k
    · simp [writeByte, hlt, readByte, h]
    · by_cases heq : a = k
      · subst heq; simp [writeByte, readByte, h]
      · simp [writeByte, hlt, heq, readByte, ih]

/-- The addresses listed after a write are those listed before and the one written. -/
theorem mem_writeByte_address {m : List Host.Cell} {a x : Nat} {b : Byte}
    (h : x ∈ (writeByte m a b).map Prod.fst) : x = a ∨ x ∈ m.map Prod.fst := by
  induction m with
  | nil => simp [writeByte] at h; exact .inl h
  | cons c m ih =>
    obtain ⟨k, v⟩ := c
    by_cases hlt : a < k
    · simpa [writeByte, hlt] using h
    · by_cases heq : a = k
      · subst heq; simp [writeByte] at h; simp; tauto
      · simp [writeByte, hlt, heq] at h ih ⊢
        rcases h with h | ⟨v', h⟩
        · exact .inr (.inl h)
        · rcases ih _ h with h | h
          · exact .inl h
          · exact .inr (.inr h)

/-- A write keeps the canonical form. -/
theorem writeByte_wf {m : List Host.Cell} (a : Nat) (b : Byte) (h : Memory.wf m) : Memory.wf (writeByte m a b) := by
  induction m with
  | nil => simp [writeByte, Memory.wf]
  | cons c m ih =>
    obtain ⟨k, v⟩ := c
    have hk : ∀ x ∈ m.map Prod.fst, k < x := (List.pairwise_cons.mp h).1
    have hm : Memory.wf m := (List.pairwise_cons.mp h).2
    by_cases hlt : a < k
    · simp only [writeByte, if_pos hlt]
      refine List.pairwise_cons.mpr ⟨fun x hx => ?_, h⟩
      rcases List.mem_cons.mp hx with rfl | hx
      · exact hlt
      · exact hlt.trans (hk x hx)
    · by_cases heq : a = k
      · subst heq
        simp only [writeByte, if_neg (Nat.lt_irrefl a)]
        exact List.pairwise_cons.mpr ⟨hk, hm⟩
      · simp only [writeByte, if_neg hlt, if_neg heq]
        refine List.pairwise_cons.mpr ⟨fun x hx => ?_, ih hm⟩
        rcases mem_writeByte_address hx with rfl | hx
        · show k < x; omega
        · exact hk x hx

/-- A write of several bytes keeps the canonical form. -/
theorem writeBytes_wf {m : List Host.Cell} (a : Nat) (bs : List Byte) (h : Memory.wf m) :
    Memory.wf (writeBytes m a bs) := by
  induction bs generalizing m a with
  | nil => exact h
  | cons b bs ih => exact ih (a + 1) (writeByte_wf a b h)

/-- The addresses listed after a write of several bytes. -/
theorem mem_writeBytes_address {m : List Host.Cell} {a x : Nat} {bs : List Byte}
    (h : x ∈ (writeBytes m a bs).map Prod.fst) : (a ≤ x ∧ x < a + bs.length) ∨ x ∈ m.map Prod.fst := by
  induction bs generalizing m a with
  | nil => exact .inr h
  | cons b bs ih =>
    rcases ih h with h | h
    · left; simp; omega
    · rcases mem_writeByte_address h with rfl | h
      · left; simp
      · exact .inr h

/-- What a byte reads as after a write of several: the byte written there, or what it was. -/
theorem readByte_writeBytes (m : List Host.Cell) (a x : Nat) (bs : List Byte) :
    readByte (writeBytes m a bs) x = if a ≤ x ∧ x < a + bs.length then bs[x - a]? else readByte m x := by
  induction bs generalizing m a with
  | nil => simp [writeBytes]
  | cons b bs ih =>
    rw [writeBytes, ih]
    by_cases hx : x = a
    · subst hx; simp
    · rw [readByte_writeByte_other m b hx]
      by_cases hin : a + 1 ≤ x ∧ x < a + 1 + bs.length
      · have h1 : x - a = x - (a + 1) + 1 := by omega
        rw [if_pos hin, if_pos (by simp; omega), h1, List.getElem?_cons_succ]
      · rw [if_neg hin, if_neg (by simp; omega)]

/-- `readBytes` answers exactly when every byte is written, and answers those bytes in order. -/
theorem readBytes_eq_some (m : List Host.Cell) (a n : Nat) (bs : List Byte) :
    readBytes m a n = some bs ↔ bs.length = n ∧ ∀ j < n, readByte m (a + j) = bs[j]? := by
  induction n generalizing a bs with
  | zero => cases bs <;> simp [readBytes]
  | succ n ih =>
    cases bs with
    | nil =>
      simp only [readBytes, List.length_nil]
      constructor
      · intro h; split at h <;> simp at h
      · rintro ⟨h, -⟩; omega
    | cons b bs =>
      have ih' := ih (a + 1) bs
      constructor
      · intro h
        simp only [readBytes] at h
        split at h
        · rename_i b' bs' h1 h2
          simp only [Option.some.injEq, List.cons.injEq] at h
          obtain ⟨rfl, rfl⟩ := h
          obtain ⟨hl, hj⟩ := ih'.mp h2
          refine ⟨by simp [hl], fun j hj' => ?_⟩
          cases j with
          | zero => simpa using h1
          | succ j => have := hj j (by omega); rw [show a + (j + 1) = a + 1 + j by omega]; simpa using this
        · cases h
      · rintro ⟨hl, hj⟩
        have h0 : readByte m a = some b := by simpa using hj 0 (by omega)
        have hr : readBytes m (a + 1) n = some bs := by
          refine ih'.mpr ⟨by simpa using hl, fun j hj' => ?_⟩
          have := hj (j + 1) (by omega)
          rw [show a + (j + 1) = a + 1 + j by omega] at this
          simpa using this
        simp [readBytes, h0, hr]

/-- `readBytes` fails exactly when some byte is unwritten. -/
theorem readBytes_eq_none (m : List Host.Cell) (a n : Nat) :
    readBytes m a n = none ↔ ∃ j < n, readByte m (a + j) = none := by
  induction n generalizing a with
  | zero => simp [readBytes]
  | succ n ih =>
    have ih' := ih (a + 1)
    cases h0 : readByte m a with
    | none => simp [readBytes, h0]; exact ⟨0, by omega, by simpa using h0⟩
    | some b =>
      cases hr : readBytes m (a + 1) n with
      | none =>
        simp only [readBytes, h0, hr, true_iff]
        obtain ⟨j, hj, hn⟩ := ih'.mp hr
        exact ⟨j + 1, by omega, by rw [show a + (j + 1) = a + 1 + j by omega]; exact hn⟩
      | some bs =>
        simp only [readBytes, h0, hr, reduceCtorEq, false_iff]
        rintro ⟨j, hj, hn⟩
        cases j with
        | zero => simp [h0] at hn
        | succ j =>
          have : readBytes m (a + 1) n = none :=
            ih'.mpr ⟨j, by omega, by rw [show a + 1 + j = a + (j + 1) by omega]; exact hn⟩
          simp [hr] at this

/-! ### The conversion functions -/

@[simp] theorem widthBytes_pos (w : Width) : 0 < widthBytes w := by cases w <;> decide

@[simp] theorem toBytes_length (o : ByteOrder) (w : Width) (v : Nat) : (toBytes o w v).length = widthBytes w := by
  simp [toBytes]

/-- value = A1 : A0, as a number (30_encoding.md R71). -/
theorem codecValue_toNat (a0 a1 : Word) : (codecValue a0 a1).toNat = a0.toNat + 2 ^ 32 * a1.toNat := by
  unfold codecValue
  rw [BitVec.toNat_append, ← Nat.shiftLeft_add_eq_or_of_lt a0.isLt, Nat.shiftLeft_eq]
  omega

/-- A value that passes R103's check is below 2^w; at w = 64 every value is. -/
theorem codecValue_lt {a0 a1 : Word} {w : Width} (h : widthBits w < 64 → (codecValue a0 a1).toNat < 2 ^ widthBits w) :
    (codecValue a0 a1).toNat < 2 ^ widthBits w := by
  cases w
  case w64 => exact (codecValue a0 a1).isLt
  all_goals exact h (by decide)

/-! ### The checks before a command's effect: what is known when one of them answers a next state -/

@[simp] theorem complete_eq_next {st : Status} {d : DataWord} {s t : State} :
    complete st d s = .next t ↔ t = s.respond st d := by
  simp [complete, eq_comm]

@[simp] theorem raise_eq_next {e : Status} {s t : State} : raise e s = .next t ↔ t = s.respond e 0#64 := by
  simp [raise]

theorem whenLive_next {s t : State} {k : Result} (h : whenLive s k = .next t) : s.live = true ∧ k = .next t := by
  unfold whenLive at h
  split at h
  · exact ⟨‹_›, h⟩
  · cases h

theorem whenIndex_next {idx : Word} {s t : State} {k : Result} (h : whenIndex idx s k = .next t) :
    (s.config.pixelCount ≤ idx.toNat ∧ t = s.respond .indexOutOfRange 0#64) ∨
    (idx.toNat < s.config.pixelCount ∧ k = .next t) := by
  unfold whenIndex at h
  split at h
  · exact .inl ⟨‹_›, raise_eq_next.mp h⟩
  · exact .inr ⟨by omega, h⟩

theorem whenChannels_next {vs : List Word} {s t : State} {k : Result} (h : whenChannels vs s k = .next t) :
    (anyAbove 255 vs = true ∧ t = s.respond .valueOutOfRange 0#64) ∨ (anyAbove 255 vs = false ∧ k = .next t) := by
  unfold whenChannels at h
  split at h
  · exact .inl ⟨‹_›, raise_eq_next.mp h⟩
  · exact .inr ⟨Bool.eq_false_iff.mpr ‹_›, h⟩

/-- Some operand exceeds the largest value allowed. -/
theorem anyAbove_eq_true {n : Nat} {vs : List Word} : anyAbove n vs = true ↔ ∃ v ∈ vs, n < v.toNat := by
  simp [anyAbove]

theorem anyAbove_eq_false {n : Nat} {vs : List Word} : anyAbove n vs = false ↔ ∀ v ∈ vs, v.toNat ≤ n := by
  simp [anyAbove]

theorem whenEncodable_next {code : BitVec 3} {v a : Nat} {s t : State} {k : Width → Result}
    (h : whenEncodable code v a s k = .next t) :
    ∃ w, widthOfCode code = some w ∧ (widthBits w < 64 → v < 2 ^ widthBits w) ∧
      a + widthBytes w ≤ s.config.codecBufBytes ∧ k w = .next t := by
  unfold whenEncodable at h
  split at h
  · cases h
  · rename_i w hw
    split at h
    · cases h
    · rename_i hv
      split at h
      · cases h
      · exact ⟨w, hw, fun hb => by by_contra hc; exact hv ⟨hb, by omega⟩, by omega, h⟩

theorem whenDecodable_next {code : BitVec 3} {a : Nat} {s t : State} {k : Width → Nat → Result}
    (h : whenDecodable code a s k = .next t) :
    ∃ w bytes, widthOfCode code = some w ∧ a + widthBytes w ≤ s.config.codecBufBytes ∧
      readBytes s.cbuf a (widthBytes w) = some bytes ∧ k w (fromBytes s.config.buildOrder w bytes) = .next t := by
  unfold whenDecodable at h
  split at h
  · cases h
  · rename_i w hw
    split at h
    · cases h
    · split at h
      · cases h
      · rename_i bytes hb
        exact ⟨w, bytes, hw, by omega, hb, h⟩

/-! ### The same checks: what is known when one of them stops the command -/

@[simp] theorem complete_ne_refused {st : Status} {d : DataWord} {s : State} {r : Refusal} :
    complete st d s ≠ .refused r := nofun

@[simp] theorem complete_ne_fault {st : Status} {d : DataWord} {s : State} {f : Fault} :
    complete st d s ≠ .fault f := nofun

/-- A refusal under the liveness check is that check's, or the command's own behind it. -/
theorem whenLive_refused {s : State} {r : Refusal} {k : Result} (h : whenLive s k = .refused r) :
    (s.live = false ∧ r = .pixelBufferTornDown) ∨ (s.live = true ∧ k = .refused r) := by
  cases hl : s.live <;> simp [whenLive, hl] at h
  · exact .inl ⟨rfl, h.symm⟩
  · exact .inr ⟨rfl, h⟩

theorem whenLive_fault {s : State} {f : Fault} {k : Result} (h : whenLive s k = .fault f) :
    s.live = true ∧ k = .fault f := by
  cases hl : s.live <;> simp [whenLive, hl] at h
  exact ⟨rfl, h⟩

theorem whenIndex_refused {idx : Word} {s : State} {r : Refusal} {k : Result} (h : whenIndex idx s k = .refused r) :
    k = .refused r := by
  unfold whenIndex at h
  split at h
  · cases h
  · exact h

theorem whenIndex_fault {idx : Word} {s : State} {f : Fault} {k : Result} (h : whenIndex idx s k = .fault f) :
    k = .fault f := by
  unfold whenIndex at h
  split at h
  · cases h
  · exact h

theorem whenChannels_refused {vs : List Word} {s : State} {r : Refusal} {k : Result}
    (h : whenChannels vs s k = .refused r) : k = .refused r := by
  unfold whenChannels at h
  split at h
  · cases h
  · exact h

theorem whenChannels_fault {vs : List Word} {s : State} {f : Fault} {k : Result}
    (h : whenChannels vs s k = .fault f) : k = .fault f := by
  unfold whenChannels at h
  split at h
  · cases h
  · exact h

/-- A refused encode failed the first of R103's checks that it fails, or was refused behind them. -/
theorem whenEncodable_refused {code : BitVec 3} {v a : Nat} {s : State} {r : Refusal} {k : Width → Result}
    (h : whenEncodable code v a s k = .refused r) :
    (widthOfCode code = none ∧ r = .reservedEncoding) ∨
    ∃ w, widthOfCode code = some w ∧
      ((widthBits w < 64 ∧ 2 ^ widthBits w ≤ v ∧ r = .codecValueRange) ∨
       ((widthBits w < 64 → v < 2 ^ widthBits w) ∧
        ((s.config.codecBufBytes < a + widthBytes w ∧ r = .codecBounds) ∨ k w = .refused r))) := by
  unfold whenEncodable at h
  split at h
  · exact .inl ⟨‹_›, by simpa using h.symm⟩
  · refine .inr ⟨_, ‹_›, ?_⟩
    split at h
    · rename_i hv
      exact .inl ⟨hv.1, hv.2, by simpa using h.symm⟩
    · rename_i hv
      refine .inr ⟨fun hw => Nat.lt_of_not_le fun hc => hv ⟨hw, hc⟩, ?_⟩
      split at h
      · exact .inl ⟨‹_›, by simpa using h.symm⟩
      · exact .inr h

theorem whenEncodable_fault {code : BitVec 3} {v a : Nat} {s : State} {f : Fault} {k : Width → Result}
    (h : whenEncodable code v a s k = .fault f) : ∃ w, k w = .fault f := by
  unfold whenEncodable at h
  split at h
  · cases h
  · split at h
    · cases h
    · split at h
      · cases h
      · exact ⟨_, h⟩

/-- A refused decode has a reserved width code or bytes past CB, or was refused behind the checks. -/
theorem whenDecodable_refused {code : BitVec 3} {a : Nat} {s : State} {r : Refusal} {k : Width → Nat → Result}
    (h : whenDecodable code a s k = .refused r) :
    (widthOfCode code = none ∧ r = .reservedEncoding) ∨
    ∃ w, widthOfCode code = some w ∧
      ((s.config.codecBufBytes < a + widthBytes w ∧ r = .codecBounds) ∨ ∃ v, k w v = .refused r) := by
  unfold whenDecodable at h
  split at h
  · exact .inl ⟨‹_›, by simpa using h.symm⟩
  · refine .inr ⟨_, ‹_›, ?_⟩
    split at h
    · exact .inl ⟨‹_›, by simpa using h.symm⟩
    · split at h
      · cases h
      · exact .inr ⟨_, h⟩

/-- A faulting decode lies inside the buffer and has an unwritten byte, or faulted behind the checks (R104). -/
theorem whenDecodable_fault {code : BitVec 3} {a : Nat} {s : State} {f : Fault} {k : Width → Nat → Result}
    (h : whenDecodable code a s k = .fault f) :
    ∃ w, widthOfCode code = some w ∧ a + widthBytes w ≤ s.config.codecBufBytes ∧
      ((f = .unwrittenCodecByte ∧ ∃ j < widthBytes w, written s.cbuf (a + j) = false) ∨ ∃ v, k w v = .fault f) := by
  unfold whenDecodable at h
  split at h
  · cases h
  · refine ⟨_, ‹_›, ?_⟩
    split at h
    · cases h
    · refine ⟨by omega, ?_⟩
      split at h
      · rename_i hb
        obtain ⟨j, hj, hn⟩ := (readBytes_eq_none _ _ _).mp hb
        exact .inl ⟨(Host.Outcome.fault.inj h).symm, j, hj, by simp [written, hn]⟩
      · exact .inr ⟨_, h⟩

/-! ### Transmission -/

/-- A transmission answers one next state: the frame sent, DIRTY by the answer, the answer's status (R142). -/
theorem transmitBacklight_next {s t : State} (h : transmitBacklight s = .next t) :
    t = ((s.transportWrite .backlight (buildFrame s)).setDirty (dirtyAfter s.nextAnswer s.dirty)).respond
      (statusOf s.nextAnswer) 0#64 :=
  complete_eq_next.mp h

theorem finishSet_next {f : Bool} {s t : State} (h : finishSet f s = .next t) :
    (f = true ∧ transmitBacklight s = .next t) ∨ (f = false ∧ t = s.respond .ok 0#64) := by
  cases f
  · exact .inr ⟨rfl, by simpa [finishSet] using h⟩
  · exact .inl ⟨rfl, by simpa [finishSet] using h⟩

/-! ### The command port -/

/-- Words at the head of the command port are the words a decoder sees first. -/
@[simp] theorem leadingWords_map_word (ws : List Word) (rest : List HostInput) :
    leadingWords (ws.map HostInput.word ++ rest) = ws ++ leadingWords rest := by
  induction ws with
  | nil => rfl
  | cons w ws ih => simp [leadingWords, ih]

theorem leadingWords_length_le (inputs : List HostInput) : (leadingWords inputs).length ≤ inputs.length := by
  induction inputs with
  | nil => simp [leadingWords]
  | cons x inputs ih => cases x <;> simp [leadingWords, ih]

/-- What a step can do when it answers a next state: wait, take a reset, or perform a whole command. -/
theorem step_next_cases {s t : State} (h : step s = .next t) :
    (fetch s.inputs = .waiting ∧ t = s) ∨
    (∃ rest, fetch s.inputs = .reset rest ∧ t = s.takeReset rest) ∨
    (∃ i rest, fetch s.inputs = .command i rest ∧ exec i (s.withInputs rest) = .next t) := by
  unfold step at h
  split at h
  · exact .inl ⟨‹_›, by simpa [eq_comm] using h⟩
  · exact .inr (.inl ⟨_, ‹_›, by simpa [eq_comm] using h⟩)
  · exact .inr (.inr ⟨_, _, ‹_›, h⟩)
  · cases h
  · cases h

end Sys2Proof.Machine
end

