-- ==== Sys2Proof/Laws/Exec.lean ====
section
/-! SUPPORT. What a command of each part can do when it completes: one inversion lemma per part, from which facts about
all commands follow without unfolding any meaning. And the facts about transport answers that the transmitting commands
share. -/

namespace Sys2Proof.Machine

/-! ### Transport answers -/

theorem code_statusOf (a : TransportAnswer) : (statusOf a).code = answerCode a := by cases a <;> rfl

theorem dirtyAfter_eq (a : TransportAnswer) (d : Bool) : dirtyAfter a d = (d && decide (a ≠ .ok)) := by
  cases a <;> simp [dirtyAfter]

@[simp] theorem State.nextAnswer_setBc (s : State) (b0 b1 : BitVec 7) : (s.setBc b0 b1).nextAnswer = s.nextAnswer := rfl

@[simp] theorem State.nextAnswer_setGs (s : State) (g0 g1 : BitVec 16) : (s.setGs g0 g1).nextAnswer = s.nextAnswer := rfl

@[simp] theorem State.nextAnswer_setDirty (s : State) (d : Bool) : (s.setDirty d).nextAnswer = s.nextAnswer := rfl

/-- DIRTY is not in the frame (41_backlight.md R139). -/
@[simp] theorem buildFrame_setDirty (s : State) (d : Bool) : buildFrame (s.setDirty d) = buildFrame s := rfl

@[simp] theorem newBuffer_length (s : State) (f : Nat → Pixel) : (newBuffer s f).length = s.config.pixelCount := by
  simp [newBuffer]

theorem newBuffer_getElem? (s : State) (f : Nat → Pixel) (i : Nat) :
    (newBuffer s f)[i]? = if i < s.config.pixelCount then some (f i) else none := by
  by_cases h : i < s.config.pixelCount <;> simp [newBuffer, h]

/-! ### The codec -/

/-- A codec command that completes answers OK, and writes the codec's own state only: bytes inside the buffer, the list
in its canonical form, the cursor inside the buffer. -/
theorem exec_codec_next {i : Instr} {s t : State} (hf : familyOf i = .codec) (h : exec i s = .next t) :
    ∃ m c d, t = ((s.setCbuf m).setCur c).respond .ok d ∧ (d ≠ 0#64 → readsValue i = true) ∧
      (s.cur ≤ s.config.codecBufBytes → c ≤ s.config.codecBufBytes) ∧ (Memory.wf s.cbuf → Memory.wf m) ∧
      ∀ x ∈ m.map Prod.fst, x < s.config.codecBufBytes ∨ x ∈ s.cbuf.map Prod.fst := by
  have stored : ∀ (w : Width) (a v : Nat), a + widthBytes w ≤ s.config.codecBufBytes →
      ∀ x ∈ (writeBytes s.cbuf a (toBytes s.config.buildOrder w v)).map Prod.fst,
        x < s.config.codecBufBytes ∨ x ∈ s.cbuf.map Prod.fst := by
    intro w a v hb x hx
    rcases mem_writeBytes_address hx with ⟨-, hlt⟩ | hx
    · rw [toBytes_length] at hlt; exact .inl (by omega)
    · exact .inr hx
  cases i <;> simp only [familyOf, reduceCtorEq] at hf <;> simp only [exec] at h
  case cdcEnc =>
    obtain ⟨w, -, -, hb, h⟩ := whenEncodable_next h
    exact ⟨_, _, _, complete_eq_next.mp h, fun hd => absurd rfl hd, fun _ => hb, writeBytes_wf _ _, stored _ _ _ hb⟩
  case cdcEncAt =>
    obtain ⟨w, -, -, hb, h⟩ := whenEncodable_next h
    exact ⟨_, s.cur, _, complete_eq_next.mp h, fun hd => absurd rfl hd, id, writeBytes_wf _ _, stored _ _ _ hb⟩
  case cdcDec =>
    obtain ⟨w, bytes, -, hb, -, h⟩ := whenDecodable_next h
    exact ⟨s.cbuf, _, _, complete_eq_next.mp h, fun _ => rfl, fun _ => hb, id, fun _ => .inr⟩
  case cdcDecAt =>
    obtain ⟨w, bytes, -, hb, -, h⟩ := whenDecodable_next h
    exact ⟨s.cbuf, s.cur, _, complete_eq_next.mp h, fun _ => rfl, id, id, fun _ => .inr⟩
  case cdcRewind =>
    exact ⟨s.cbuf, 0, _, complete_eq_next.mp h, fun hd => absurd rfl hd, fun _ => Nat.zero_le _, id, fun _ => .inr⟩
  case cdcGetCursor =>
    exact ⟨s.cbuf, s.cur, _, complete_eq_next.mp h, fun _ => rfl, id, id, fun _ => .inr⟩

/-! ### The Backlight Encoder -/

/-- A Backlight command that completes is a getter that answers its register, a setter rejected with ValueOutOfRange, or
writes the Backlight's own registers and ends with OK or with a transmission. -/
theorem exec_backlight_next {i : Instr} {s t : State} (hf : familyOf i = .backlight) (h : exec i s = .next t) :
    (∃ d, t = s.respond .ok d ∧ readsValue i = true) ∨
    (t = s.respond .valueOutOfRange 0#64 ∧ ((∃ f a b, i = .blSetBc f a b ∧ anyAbove 127 [a, b] = true) ∨
      ∃ f a b, i = .blSetGs f a b ∧ anyAbove 65535 [a, b] = true)) ∨
    (∃ f a b, i = .blSetBc f a b ∧ anyAbove 127 [a, b] = false ∧
      finishSet f ((s.setBc (brightnessOf a) (brightnessOf b)).setDirty true) = .next t) ∨
    (∃ f a b, i = .blSetGs f a b ∧ anyAbove 65535 [a, b] = false ∧
      finishSet f ((s.setGs (grayscaleOf a) (grayscaleOf b)).setDirty true) = .next t) ∨
    (i = .blFlush ∧ transmitBacklight s = .next t) := by
  cases i <;> simp only [familyOf, reduceCtorEq] at hf <;> simp only [exec] at h
  case blSetBc f a b =>
    unfold execBlSetBc at h
    split at h
    · exact .inr (.inl ⟨raise_eq_next.mp h, .inl ⟨f, a, b, rfl, ‹_›⟩⟩)
    · exact .inr (.inr (.inl ⟨f, a, b, rfl, Bool.eq_false_iff.mpr ‹_›, h⟩))
  case blSetGs f a b =>
    unfold execBlSetGs at h
    split at h
    · exact .inr (.inl ⟨raise_eq_next.mp h, .inr ⟨f, a, b, rfl, ‹_›⟩⟩)
    · exact .inr (.inr (.inr (.inl ⟨f, a, b, rfl, Bool.eq_false_iff.mpr ‹_›, h⟩)))
  case blFlush => exact .inr (.inr (.inr (.inr ⟨rfl, h⟩)))
  case blGetBc => exact .inl ⟨_, complete_eq_next.mp h, rfl⟩
  case blGetGs => exact .inl ⟨_, complete_eq_next.mp h, rfl⟩
  case blGetDirty => exact .inl ⟨_, complete_eq_next.mp h, rfl⟩

/-! ### The Pixel Buffer -/

theorem setChannel_next {idx v : Word} {write : Pixel → Byte → Pixel} {s t : State}
    (h : setChannel idx v write s = .next t) :
    s.live = true ∧
      (t = s.respond .indexOutOfRange 0#64 ∨ t = s.respond .valueOutOfRange 0#64 ∨
        t = (s.updatePixel idx.toNat fun p => write p (channelOf v)).respond .ok 0#64) := by
  obtain ⟨hl, h⟩ := whenLive_next h
  rcases whenIndex_next h with ⟨-, h⟩ | ⟨-, h⟩
  · exact ⟨hl, .inl h⟩
  rcases whenChannels_next h with ⟨-, h⟩ | ⟨-, h⟩
  · exact ⟨hl, .inr (.inl h)⟩
  · exact ⟨hl, .inr (.inr (complete_eq_next.mp h))⟩

theorem getChannel_next {idx : Word} {channel : Pixel → Byte} {s t : State} (h : getChannel idx channel s = .next t) :
    s.live = true ∧ (t = s.respond .indexOutOfRange 0#64 ∨ ∃ d, t = s.respond .ok d) := by
  obtain ⟨hl, h⟩ := whenLive_next h
  rcases whenIndex_next h with ⟨-, h⟩ | ⟨-, h⟩
  · exact ⟨hl, .inl h⟩
  · exact ⟨hl, .inr ⟨_, complete_eq_next.mp h⟩⟩

/-- A Pixel Buffer command that completes finds the buffer live, and is rejected by a check, or answers OK and writes the
buffer at its old length or LIVE, or transmits the strip frame. -/
theorem exec_pixel_next {i : Instr} {s t : State} (hf : familyOf i = .pixel) (h : exec i s = .next t) :
    s.live = true ∧
      (t = s.respond .indexOutOfRange 0#64 ∨ t = s.respond .valueOutOfRange 0#64 ∨
       (∃ d, t = s.respond .ok d ∧ readsValue i = true) ∨
       (∃ new, t = (s.setPx new).respond .ok 0#64 ∧ (s.px.length = s.config.pixelCount → new.length = s.px.length)) ∨
       (i = .pxTeardown ∧ t = (s.setLive false).respond .ok 0#64) ∨
       (i = .pxShow ∧ t = (s.transportWrite .strip (stripFrame s)).respond (statusOf s.nextAnswer) 0#64)) := by
  have hmod : ∀ (j : Nat) (f : Pixel → Pixel), (s.px.modify j f).length = s.px.length := fun j f => by simp
  have setter : ∀ {idx v : Word} {write : Pixel → Byte → Pixel}, setChannel idx v write s = .next t → s.live = true ∧
      (t = s.respond .indexOutOfRange 0#64 ∨ t = s.respond .valueOutOfRange 0#64 ∨
        ∃ new, t = (s.setPx new).respond .ok 0#64 ∧ (s.px.length = s.config.pixelCount → new.length = s.px.length)) := by
    intro idx v write h
    obtain ⟨hl, h | h | h⟩ := setChannel_next h
    · exact ⟨hl, .inl h⟩
    · exact ⟨hl, .inr (.inl h)⟩
    · exact ⟨hl, .inr (.inr ⟨_, h, fun _ => hmod _ _⟩)⟩
  cases i <;> simp only [familyOf, reduceCtorEq] at hf <;> simp only [exec] at h
  case pxSet =>
    obtain ⟨hl, h⟩ := whenLive_next h
    rcases whenIndex_next h with ⟨-, h⟩ | ⟨-, h⟩
    · exact ⟨hl, .inl h⟩
    rcases whenChannels_next h with ⟨-, h⟩ | ⟨-, h⟩
    · exact ⟨hl, .inr (.inl h)⟩
    · exact ⟨hl, .inr (.inr (.inr (.inl ⟨_, complete_eq_next.mp h, fun _ => hmod _ _⟩)))⟩
  case pxSetR =>
    obtain ⟨hl, h | h | h⟩ := setter h
    exacts [⟨hl, .inl h⟩, ⟨hl, .inr (.inl h)⟩, ⟨hl, .inr (.inr (.inr (.inl h)))⟩]
  case pxSetG =>
    obtain ⟨hl, h | h | h⟩ := setter h
    exacts [⟨hl, .inl h⟩, ⟨hl, .inr (.inl h)⟩, ⟨hl, .inr (.inr (.inr (.inl h)))⟩]
  case pxSetB =>
    obtain ⟨hl, h | h | h⟩ := setter h
    exacts [⟨hl, .inl h⟩, ⟨hl, .inr (.inl h)⟩, ⟨hl, .inr (.inr (.inr (.inl h)))⟩]
  case pxSetBrt =>
    obtain ⟨hl, h | h | h⟩ := setter h
    exacts [⟨hl, .inl h⟩, ⟨hl, .inr (.inl h)⟩, ⟨hl, .inr (.inr (.inr (.inl h)))⟩]
  case pxGetR => obtain ⟨hl, h | ⟨d, h⟩⟩ := getChannel_next h; exacts [⟨hl, .inl h⟩, ⟨hl, .inr (.inr (.inl ⟨d, h, rfl⟩))⟩]
  case pxGetG => obtain ⟨hl, h | ⟨d, h⟩⟩ := getChannel_next h; exacts [⟨hl, .inl h⟩, ⟨hl, .inr (.inr (.inl ⟨d, h, rfl⟩))⟩]
  case pxGetB => obtain ⟨hl, h | ⟨d, h⟩⟩ := getChannel_next h; exacts [⟨hl, .inl h⟩, ⟨hl, .inr (.inr (.inl ⟨d, h, rfl⟩))⟩]
  case pxGetBrt =>
    obtain ⟨hl, h | ⟨d, h⟩⟩ := getChannel_next h; exacts [⟨hl, .inl h⟩, ⟨hl, .inr (.inr (.inl ⟨d, h, rfl⟩))⟩]
  case pxFill =>
    obtain ⟨hl, h⟩ := whenLive_next h
    rcases whenChannels_next h with ⟨-, h⟩ | ⟨-, h⟩
    · exact ⟨hl, .inr (.inl h)⟩
    · exact ⟨hl, .inr (.inr (.inr (.inl ⟨_, complete_eq_next.mp h, fun hn => by rw [newBuffer_length, hn]⟩)))⟩
  case pxPushFront =>
    obtain ⟨hl, h⟩ := whenLive_next h
    rcases whenChannels_next h with ⟨-, h⟩ | ⟨-, h⟩
    · exact ⟨hl, .inr (.inl h)⟩
    · exact ⟨hl, .inr (.inr (.inr (.inl ⟨_, complete_eq_next.mp h, fun hn => by rw [newBuffer_length, hn]⟩)))⟩
  case pxPushBack =>
    obtain ⟨hl, h⟩ := whenLive_next h
    rcases whenChannels_next h with ⟨-, h⟩ | ⟨-, h⟩
    · exact ⟨hl, .inr (.inl h)⟩
    · exact ⟨hl, .inr (.inr (.inr (.inl ⟨_, complete_eq_next.mp h, fun hn => by rw [newBuffer_length, hn]⟩)))⟩
  case pxRotL =>
    obtain ⟨hl, h⟩ := whenLive_next h
    exact ⟨hl, .inr (.inr (.inr (.inl ⟨_, complete_eq_next.mp h, fun hn => by rw [newBuffer_length, hn]⟩)))⟩
  case pxRotR =>
    obtain ⟨hl, h⟩ := whenLive_next h
    exact ⟨hl, .inr (.inr (.inr (.inl ⟨_, complete_eq_next.mp h, fun hn => by rw [newBuffer_length, hn]⟩)))⟩
  case pxClear =>
    obtain ⟨hl, h⟩ := whenLive_next h
    exact ⟨hl, .inr (.inr (.inr (.inl ⟨_, complete_eq_next.mp h, fun hn => by rw [newBuffer_length, hn]⟩)))⟩
  case pxShow =>
    obtain ⟨hl, h⟩ := whenLive_next h
    exact ⟨hl, .inr (.inr (.inr (.inr (.inr ⟨rfl, complete_eq_next.mp h⟩))))⟩
  case pxTeardown =>
    obtain ⟨hl, h⟩ := whenLive_next h
    exact ⟨hl, .inr (.inr (.inr (.inr (.inl ⟨rfl, complete_eq_next.mp h⟩))))⟩

end Sys2Proof.Machine
end

