-- ==== Sys2Proof/Laws/PerInstr.lean ====
section
/-! SUPPORT. Per command, the shape of its words: one opcode word with RSV = 0, the row's OP and no unused MOD bit, and k
operand words (30_encoding.md R70, R72 to R74, R78). -/

namespace Sys2Proof

/-- The opcode of a command. -/
def Instr.opcode : Instr → Opcode
  | .cdcEnc _ _ _ => .cdcEnc
  | .cdcEncAt _ _ _ _ => .cdcEncAt
  | .cdcDec _ => .cdcDec
  | .cdcDecAt _ _ => .cdcDecAt
  | .cdcRewind => .cdcRewind
  | .cdcGetCursor => .cdcGetCursor
  | .blSetBc _ _ _ => .blSetBc
  | .blSetGs _ _ _ => .blSetGs
  | .blFlush => .blFlush
  | .blGetBc _ => .blGetBc
  | .blGetGs _ => .blGetGs
  | .blGetDirty => .blGetDirty
  | .pxSet _ _ _ _ _ => .pxSet
  | .pxSetR _ _ => .pxSetR
  | .pxSetG _ _ => .pxSetG
  | .pxSetB _ _ => .pxSetB
  | .pxSetBrt _ _ => .pxSetBrt
  | .pxGetR _ => .pxGetR
  | .pxGetG _ => .pxGetG
  | .pxGetB _ => .pxGetB
  | .pxGetBrt _ => .pxGetBrt
  | .pxFill _ _ _ _ => .pxFill
  | .pxPushFront _ _ _ _ => .pxPushFront
  | .pxPushBack _ _ _ _ => .pxPushBack
  | .pxRotL => .pxRotL
  | .pxRotR => .pxRotR
  | .pxClear => .pxClear
  | .pxShow => .pxShow
  | .pxTeardown => .pxTeardown

/-- Column k of R78: the number of operand words. -/
def Opcode.operandWords : Opcode → Nat
  | .cdcEnc => 2
  | .cdcEncAt => 3
  | .cdcDec => 0
  | .cdcDecAt => 1
  | .cdcRewind => 0
  | .cdcGetCursor => 0
  | .blSetBc => 2
  | .blSetGs => 2
  | .blFlush => 0
  | .blGetBc => 0
  | .blGetGs => 0
  | .blGetDirty => 0
  | .pxSet => 5
  | .pxSetR => 2
  | .pxSetG => 2
  | .pxSetB => 2
  | .pxSetBrt => 2
  | .pxGetR => 1
  | .pxGetG => 1
  | .pxGetB => 1
  | .pxGetBrt => 1
  | .pxFill => 4
  | .pxPushFront => 4
  | .pxPushBack => 4
  | .pxRotL => 0
  | .pxRotR => 0
  | .pxClear => 0
  | .pxShow => 0
  | .pxTeardown => 0

end Sys2Proof

namespace Sys2Proof.Laws.EncodeShape

/-- The words of a command are an opcode word of its row's shape and the row's number of operand words. -/
def Statement (i : Instr) : Prop :=
  ∃ w ws, encode i = w :: ws ∧ ws.length = i.opcode.operandWords ∧ rsvField w = 0#16 ∧
    opcodeOfByte (opField w) = some i.opcode ∧ modField w &&& i.opcode.modUse.unusedMask = 0#8

theorem cdcEnc (w : BitVec 3) (a0 a1 : Word) : Statement (.cdcEnc w a0 a1) :=
  ⟨_, _, rfl, rfl, by simp, by simp [opcodeOfByte, Instr.opcode], by simp [Instr.opcode, Opcode.modUse]⟩

theorem cdcEncAt (w : BitVec 3) (a0 a1 a2 : Word) : Statement (.cdcEncAt w a0 a1 a2) :=
  ⟨_, _, rfl, rfl, by simp, by simp [opcodeOfByte, Instr.opcode], by simp [Instr.opcode, Opcode.modUse]⟩

theorem cdcDec (w : BitVec 3) : Statement (.cdcDec w) :=
  ⟨_, _, rfl, rfl, by simp, by simp [opcodeOfByte, Instr.opcode], by simp [Instr.opcode, Opcode.modUse]⟩

theorem cdcDecAt (w : BitVec 3) (a0 : Word) : Statement (.cdcDecAt w a0) :=
  ⟨_, _, rfl, rfl, by simp, by simp [opcodeOfByte, Instr.opcode], by simp [Instr.opcode, Opcode.modUse]⟩

theorem cdcRewind : Statement .cdcRewind :=
  ⟨_, _, rfl, rfl, by simp, by simp [opcodeOfByte, Instr.opcode], by simp [Instr.opcode, Opcode.modUse]⟩

theorem cdcGetCursor : Statement .cdcGetCursor :=
  ⟨_, _, rfl, rfl, by simp, by simp [opcodeOfByte, Instr.opcode], by simp [Instr.opcode, Opcode.modUse]⟩

theorem blSetBc (f : Bool) (ch1 ch2 : Word) : Statement (.blSetBc f ch1 ch2) :=
  ⟨_, _, rfl, rfl, by simp, by simp [opcodeOfByte, Instr.opcode], by simp [Instr.opcode, Opcode.modUse]⟩

theorem blSetGs (f : Bool) (ch1 ch2 : Word) : Statement (.blSetGs f ch1 ch2) :=
  ⟨_, _, rfl, rfl, by simp, by simp [opcodeOfByte, Instr.opcode], by simp [Instr.opcode, Opcode.modUse]⟩

theorem blFlush : Statement .blFlush :=
  ⟨_, _, rfl, rfl, by simp, by simp [opcodeOfByte, Instr.opcode], by simp [Instr.opcode, Opcode.modUse]⟩

theorem blGetBc (c : Bool) : Statement (.blGetBc c) :=
  ⟨_, _, rfl, rfl, by simp, by simp [opcodeOfByte, Instr.opcode], by simp [Instr.opcode, Opcode.modUse]⟩

theorem blGetGs (c : Bool) : Statement (.blGetGs c) :=
  ⟨_, _, rfl, rfl, by simp, by simp [opcodeOfByte, Instr.opcode], by simp [Instr.opcode, Opcode.modUse]⟩

theorem blGetDirty : Statement .blGetDirty :=
  ⟨_, _, rfl, rfl, by simp, by simp [opcodeOfByte, Instr.opcode], by simp [Instr.opcode, Opcode.modUse]⟩

theorem pxSet (idx r g b brt : Word) : Statement (.pxSet idx r g b brt) :=
  ⟨_, _, rfl, rfl, by simp, by simp [opcodeOfByte, Instr.opcode], by simp [Instr.opcode, Opcode.modUse]⟩

theorem pxSetR (idx v : Word) : Statement (.pxSetR idx v) :=
  ⟨_, _, rfl, rfl, by simp, by simp [opcodeOfByte, Instr.opcode], by simp [Instr.opcode, Opcode.modUse]⟩

theorem pxSetG (idx v : Word) : Statement (.pxSetG idx v) :=
  ⟨_, _, rfl, rfl, by simp, by simp [opcodeOfByte, Instr.opcode], by simp [Instr.opcode, Opcode.modUse]⟩

theorem pxSetB (idx v : Word) : Statement (.pxSetB idx v) :=
  ⟨_, _, rfl, rfl, by simp, by simp [opcodeOfByte, Instr.opcode], by simp [Instr.opcode, Opcode.modUse]⟩

theorem pxSetBrt (idx v : Word) : Statement (.pxSetBrt idx v) :=
  ⟨_, _, rfl, rfl, by simp, by simp [opcodeOfByte, Instr.opcode], by simp [Instr.opcode, Opcode.modUse]⟩

theorem pxGetR (idx : Word) : Statement (.pxGetR idx) :=
  ⟨_, _, rfl, rfl, by simp, by simp [opcodeOfByte, Instr.opcode], by simp [Instr.opcode, Opcode.modUse]⟩

theorem pxGetG (idx : Word) : Statement (.pxGetG idx) :=
  ⟨_, _, rfl, rfl, by simp, by simp [opcodeOfByte, Instr.opcode], by simp [Instr.opcode, Opcode.modUse]⟩

theorem pxGetB (idx : Word) : Statement (.pxGetB idx) :=
  ⟨_, _, rfl, rfl, by simp, by simp [opcodeOfByte, Instr.opcode], by simp [Instr.opcode, Opcode.modUse]⟩

theorem pxGetBrt (idx : Word) : Statement (.pxGetBrt idx) :=
  ⟨_, _, rfl, rfl, by simp, by simp [opcodeOfByte, Instr.opcode], by simp [Instr.opcode, Opcode.modUse]⟩

theorem pxFill (r g b brt : Word) : Statement (.pxFill r g b brt) :=
  ⟨_, _, rfl, rfl, by simp, by simp [opcodeOfByte, Instr.opcode], by simp [Instr.opcode, Opcode.modUse]⟩

theorem pxPushFront (r g b brt : Word) : Statement (.pxPushFront r g b brt) :=
  ⟨_, _, rfl, rfl, by simp, by simp [opcodeOfByte, Instr.opcode], by simp [Instr.opcode, Opcode.modUse]⟩

theorem pxPushBack (r g b brt : Word) : Statement (.pxPushBack r g b brt) :=
  ⟨_, _, rfl, rfl, by simp, by simp [opcodeOfByte, Instr.opcode], by simp [Instr.opcode, Opcode.modUse]⟩

theorem pxRotL : Statement .pxRotL :=
  ⟨_, _, rfl, rfl, by simp, by simp [opcodeOfByte, Instr.opcode], by simp [Instr.opcode, Opcode.modUse]⟩

theorem pxRotR : Statement .pxRotR :=
  ⟨_, _, rfl, rfl, by simp, by simp [opcodeOfByte, Instr.opcode], by simp [Instr.opcode, Opcode.modUse]⟩

theorem pxClear : Statement .pxClear :=
  ⟨_, _, rfl, rfl, by simp, by simp [opcodeOfByte, Instr.opcode], by simp [Instr.opcode, Opcode.modUse]⟩

theorem pxShow : Statement .pxShow :=
  ⟨_, _, rfl, rfl, by simp, by simp [opcodeOfByte, Instr.opcode], by simp [Instr.opcode, Opcode.modUse]⟩

theorem pxTeardown : Statement .pxTeardown :=
  ⟨_, _, rfl, rfl, by simp, by simp [opcodeOfByte, Instr.opcode], by simp [Instr.opcode, Opcode.modUse]⟩

end Sys2Proof.Laws.EncodeShape
end

