-- ==== Sys2Proof/Tests/Slice0.lean ====
section
/-! SUPPORT. Own tests. Expected results are from spec/ (the example words of 30_encoding.md R84, the vectors V-* and programs
P* of 95_test_vectors.md, the examples of the rules), never from the model. Then one witness per statement with
hypotheses: a concrete state and operands that meet them together. -/

namespace Sys2Proof.Tests

open Sys2Proof Sys2Proof.Machine

/-! ### Helpers -/

/-- The reset state of an instance with N = `n`, CB = `cb`, the given order and DIRTY_RESET = 0. -/
def lfe (n : Nat) (o : ByteOrder) (cb : Nat) : State :=
  State.resetOf { pixelCount := n, buildOrder := o, codecBufBytes := cb, dirtyReset := false }

/-- The state a command answers satisfies `p`. -/
def nextIs (r : Result) (p : State → Bool) : Bool :=
  match r with
  | .next t => p t
  | _ => false

/-- The command is refused for this reason. -/
def refusedFor (r : Result) (why : Refusal) : Bool :=
  match r with
  | .refused x => decide (x = why)
  | _ => false

/-- The command faults. -/
def faults (r : Result) : Bool :=
  match r with
  | .fault .unwrittenCodecByte => true
  | _ => false

/-- The state after, for a command that completes. -/
def after (r : Result) : State :=
  match r with
  | .next t => t
  | _ => State.reset

/-- The last response, as status code and data. -/
def answer (s : State) : Option (Nat × Nat) := s.responses.getLast?.map fun r => (r.status.toNat, r.data.toNat)

/-- A pixel with four equal channels. -/
def grey (x : Nat) : Pixel := pixelOfValues x x x x

/-- Four pixels A, B, C, D of 95_test_vectors.md 2.4. -/
def abcd : State := { lfe 4 .big 16 with px := [grey 1, grey 2, grey 3, grey 4] }

/-- The next write is answered `a`. -/
def answering (a : TransportAnswer) (s : State) : State := { s with answers := [a] }

/-! ### Well-formedness: an ill-formed term for each check -/

theorem test_wf_reserved_width_refused :
    (Instr.cdcEnc 5#3 0#32 0#32).wellFormed = false ∧ (Instr.cdcEncAt 6#3 0#32 0#32 0#32).wellFormed = false ∧
    (Instr.cdcDec 7#3).wellFormed = false ∧ (Instr.cdcDecAt 5#3 0#32).wellFormed = false ∧
    (Instr.cdcDec 4#3).wellFormed = true := by decide

theorem test_wf_config_ranges :
    (lfe 0 .big 8).config.wellFormed = false ∧ (lfe (2 ^ 32) .big 8).config.wellFormed = false ∧
    (lfe 1 .big 7).config.wellFormed = false ∧ (lfe 1 .big 8).config.wellFormed = true ∧
    (lfe (2 ^ 32 - 1) .big 8).config.wellFormed = true := by decide

/-! ### Decoding: a word written out from R72 and R78 for every constructor -/

theorem test_decode_cdcEnc : decode [0x00000401#32, 1#32, 2#32] = .ok (.cdcEnc 4#3 1#32 2#32, []) := rfl
theorem test_decode_cdcEncAt : decode [0x00000202#32, 1#32, 2#32, 3#32] = .ok (.cdcEncAt 2#3 1#32 2#32 3#32, []) := rfl
theorem test_decode_cdcDec : decode [0x00000303#32] = .ok (.cdcDec 3#3, []) := rfl
theorem test_decode_cdcDecAt : decode [0x00000404#32, 9#32] = .ok (.cdcDecAt 4#3 9#32, []) := rfl
theorem test_decode_cdcRewind : decode [0x00000005#32] = .ok (.cdcRewind, []) := rfl
theorem test_decode_cdcGetCursor : decode [0x00000006#32] = .ok (.cdcGetCursor, []) := rfl
theorem test_decode_blSetBc : decode [0x00000110#32, 1#32, 2#32] = .ok (.blSetBc true 1#32 2#32, []) := rfl
theorem test_decode_blSetGs : decode [0x00000011#32, 1#32, 2#32] = .ok (.blSetGs false 1#32 2#32, []) := rfl
theorem test_decode_blFlush : decode [0x00000012#32] = .ok (.blFlush, []) := rfl
theorem test_decode_blGetBc : decode [0x00000113#32] = .ok (.blGetBc true, []) := rfl
theorem test_decode_blGetGs : decode [0x00000014#32] = .ok (.blGetGs false, []) := rfl
theorem test_decode_blGetDirty : decode [0x00000015#32] = .ok (.blGetDirty, []) := rfl
theorem test_decode_pxSet :
    decode [0x00000020#32, 1#32, 2#32, 3#32, 4#32, 5#32, 6#32] = .ok (.pxSet 1#32 2#32 3#32 4#32 5#32, [6#32]) := rfl
theorem test_decode_pxSetR : decode [0x00000021#32, 1#32, 2#32] = .ok (.pxSetR 1#32 2#32, []) := rfl
theorem test_decode_pxSetG : decode [0x00000022#32, 1#32, 2#32] = .ok (.pxSetG 1#32 2#32, []) := rfl
theorem test_decode_pxSetB : decode [0x00000023#32, 1#32, 2#32] = .ok (.pxSetB 1#32 2#32, []) := rfl
theorem test_decode_pxSetBrt : decode [0x00000024#32, 1#32, 2#32] = .ok (.pxSetBrt 1#32 2#32, []) := rfl
theorem test_decode_pxGetR : decode [0x00000025#32, 1#32] = .ok (.pxGetR 1#32, []) := rfl
theorem test_decode_pxGetG : decode [0x00000026#32, 1#32] = .ok (.pxGetG 1#32, []) := rfl
theorem test_decode_pxGetB : decode [0x00000027#32, 1#32] = .ok (.pxGetB 1#32, []) := rfl
theorem test_decode_pxGetBrt : decode [0x00000028#32, 1#32] = .ok (.pxGetBrt 1#32, []) := rfl
theorem test_decode_pxFill : decode [0x00000029#32, 1#32, 2#32, 3#32, 4#32] = .ok (.pxFill 1#32 2#32 3#32 4#32, []) := rfl
theorem test_decode_pxPushFront :
    decode [0x0000002A#32, 1#32, 2#32, 3#32, 4#32] = .ok (.pxPushFront 1#32 2#32 3#32 4#32, []) := rfl
theorem test_decode_pxPushBack :
    decode [0x0000002B#32, 1#32, 2#32, 3#32, 4#32] = .ok (.pxPushBack 1#32 2#32 3#32 4#32, []) := rfl
theorem test_decode_pxRotL : decode [0x0000002C#32] = .ok (.pxRotL, []) := rfl
theorem test_decode_pxRotR : decode [0x0000002D#32] = .ok (.pxRotR, []) := rfl
theorem test_decode_pxClear : decode [0x0000002E#32] = .ok (.pxClear, []) := rfl
theorem test_decode_pxShow : decode [0x0000002F#32] = .ok (.pxShow, []) := rfl
theorem test_decode_pxTeardown : decode [0x00000030#32] = .ok (.pxTeardown, []) := rfl

/-- The refused words of V-ENC-1. -/
theorem test_decode_reserved_words :
    [0x00000210, 0x00008013, 0x00000501, 0x00000703, 0x00000901, 0x00000105, 0x00000031, 0x00000007, 0x00000016,
      0x000000FF, 0x80000012].map (decodeTableWord 32) = List.replicate 11 none := by decide

/-- The first instruction after reset is the one placed, without its operand words' successors. -/
theorem test_first_command_runs : nextIs (step (State.reset.withFetchWord 32 0x00000113)) (fun t =>
    decide (answer t = some (0, 127) ∧ t.inputs = [])) = true := by decide

/-! ### The codec (V-CDC-1 to V-CDC-7) -/

theorem test_toBytes : toBytes .big .w32 0x11223344 = [0x11#8, 0x22#8, 0x33#8, 0x44#8] ∧
    toBytes .little .w24 0xABCDEF = [0xEF#8, 0xCD#8, 0xAB#8] ∧
    toBytes .little .w32 0x80000001 = [0x01#8, 0x00#8, 0x00#8, 0x80#8] := by decide

theorem test_fromBytes : fromBytes .big .w24 [0xAB#8, 0xCD#8, 0xEF#8] = 0xABCDEF ∧
    fromBytes .little .w16 [0x00#8, 0x01#8] = 0x0100 ∧
    fromBytes .big .w64 (0x80#8 :: List.replicate 7 0#8) = 0x8000000000000000 := by decide

theorem test_cdcEnc_big : nextIs (exec (.cdcEnc 1#3 0x1234#32 0#32) (lfe 1 .big 16)) (fun t =>
    decide (t.cbuf = [(0, 0x12#8), (1, 0x34#8)] ∧ t.cur = 2 ∧ answer t = some (0, 0))) = true := by decide

theorem test_cdcEnc_value_before_bounds :
    refusedFor (exec (.cdcEnc 0#3 256#32 0#32) { lfe 1 .big 8 with cur := 8 }) .codecValueRange = true ∧
    refusedFor (exec (.cdcEnc 0#3 0#32 0#32) { lfe 1 .big 8 with cur := 8 }) .codecBounds = true ∧
    refusedFor (exec (.cdcEnc 3#3 0#32 1#32) (lfe 1 .big 16)) .codecValueRange = true ∧
    nextIs (exec (.cdcEnc 4#3 0xFFFFFFFF#32 0xFFFFFFFF#32) (lfe 1 .big 8)) (fun t => decide (t.cur = 8)) = true := by decide

theorem test_cdcEncAt_little : nextIs (exec (.cdcEncAt 2#3 0xABCDEF#32 0#32 5#32) (lfe 1 .little 16)) (fun t =>
    decide (t.cbuf = [(5, 0xEF#8), (6, 0xCD#8), (7, 0xAB#8)] ∧ t.cur = 0)) = true := by decide

theorem test_cdcEncAt_bounds :
    refusedFor (exec (.cdcEncAt 3#3 1#32 0#32 5#32) (lfe 1 .big 8)) .codecBounds = true ∧
    refusedFor (exec (.cdcEncAt 0#3 1#32 0#32 0xFFFFFFFF#32) (lfe 1 .big 8)) .codecBounds = true ∧
    nextIs (exec (.cdcEncAt 3#3 1#32 0#32 4#32) (lfe 1 .big 8)) (fun _ => true) = true := by decide

theorem test_cdcDec_shared_cursor :
    faults (exec (.cdcDec 1#3) (after (exec (.cdcEnc 1#3 0x1234#32 0#32) (lfe 1 .big 16)))) = true ∧
    nextIs (exec (.cdcDec 1#3) { after (exec (.cdcEnc 1#3 0x1234#32 0#32) (lfe 1 .big 16)) with cur := 0 }) (fun t =>
      decide (answer t = some (0, 0x1234) ∧ t.cur = 2)) = true := by decide

theorem test_cdcDecAt_mixed_width :
    nextIs (exec (.cdcDecAt 1#3 2#32) (after (exec (.cdcEncAt 3#3 0x11223344#32 0#32 0#32) (lfe 1 .big 16)))) (fun t =>
      decide (answer t = some (0, 0x3344))) = true ∧
    nextIs (exec (.cdcDecAt 1#3 2#32) (after (exec (.cdcEncAt 3#3 0x11223344#32 0#32 0#32) (lfe 1 .little 16)))) (fun t =>
      decide (answer t = some (0, 0x1122))) = true := by decide

theorem test_cdcDecAt_unwritten_faults :
    faults (exec (.cdcDecAt 2#3 0#32) (after (exec (.cdcEncAt 1#3 0xBEEF#32 0#32 0#32) (lfe 1 .big 16)))) = true := by decide

theorem test_cdcRewind : nextIs (exec .cdcRewind { lfe 1 .big 16 with cur := 6, cbuf := [(0, 7#8)] }) (fun t =>
    decide (t.cur = 0 ∧ t.cbuf = [(0, 7#8)])) = true := by decide

theorem test_cdcGetCursor : nextIs (exec .cdcGetCursor { lfe 1 .big 16 with cur := 8 }) (fun t =>
    decide (answer t = some (0, 8))) = true := by decide

/-! ### The Backlight Encoder (V-BL-1 to V-BL-15) -/

/-- V-BL-5: BC = [1, 2], GS = [0x1234, 0xABCD]. -/
theorem test_frame_V_BL_5 :
    buildFrame { lfe 1 .little 16 with bc0 := 1#7, bc1 := 2#7, gs0 := 0x1234#16, gs1 := 0xABCD#16 } =
      [0x96#8, 0xC0#8, 0x41#8, 0x00#8, 0x12#8, 0x34#8, 0xAB#8, 0xCD#8] ++ List.replicate 20 0x00#8 := by decide

theorem test_blSetBc_range : nextIs (exec (.blSetBc true 127#32 128#32) (lfe 1 .big 16)) (fun t =>
    decide (t.bc0 = 127#7 ∧ t.bc1 = 127#7 ∧ t.dirty = false ∧ t.frames = [] ∧ answer t = some (1, 0))) = true := by decide

/-- V-BL-11, last row: the frame is V-BL-9. -/
theorem test_blSetBc_failed_write : nextIs (exec (.blSetBc true 0#32 127#32) (answering .speedRejected
    { lfe 1 .big 16 with gs0 := 0#16, gs1 := 0#16 })) (fun t =>
    decide (t.bc0 = 0#7 ∧ t.bc1 = 127#7 ∧ t.dirty = true ∧ answer t = some (6, 0) ∧
      t.frames = [{ target := .backlight, bytes := [0x96#8, 0xC0#8, 0x3F#8, 0x80#8] ++ List.replicate 24 0x00#8 }])) = true := by decide

/-- V-BL-12, last row: the frame is V-BL-3. -/
theorem test_blSetGs_flush : nextIs (exec (.blSetGs true 65535#32 0#32) (answering .ok (lfe 1 .big 16))) (fun t =>
    decide (t.gs0 = 65535#16 ∧ t.gs1 = 0#16 ∧ t.dirty = false ∧ answer t = some (0, 0) ∧
      t.frames = [{ target := .backlight,
                    bytes := [0x96#8, 0xDF#8, 0xFF#8, 0x80#8, 0xFF#8, 0xFF#8] ++ List.replicate 22 0x00#8 }])) = true := by decide

theorem test_blSetGs_range : nextIs (exec (.blSetGs false 0#32 65536#32) (lfe 1 .big 16)) (fun t =>
    decide (t.gs0 = 65535#16 ∧ t.gs1 = 65535#16 ∧ t.dirty = false ∧ answer t = some (1, 0))) = true := by decide

/-- V-BL-13, rows OpenFailed and OK: DIRTY kept, then cleared. -/
theorem test_blFlush_answers :
    nextIs (exec .blFlush (answering .openFailed { lfe 1 .big 16 with dirty := true })) (fun t =>
      decide (answer t = some (3, 0) ∧ t.dirty = true ∧ t.frames.length = 1)) = true ∧
    nextIs (exec .blFlush (answering .ok { lfe 1 .big 16 with dirty := true })) (fun t =>
      decide (answer t = some (0, 0) ∧ t.dirty = false)) = true := by decide

theorem test_blGetBc_channel_2 : nextIs (exec (.blGetBc true) { lfe 1 .big 16 with bc1 := 5#7 }) (fun t =>
    decide (answer t = some (0, 5))) = true := by decide

theorem test_blGetGs_channel_1 : nextIs (exec (.blGetGs false) { lfe 1 .big 16 with gs1 := 5#16 }) (fun t =>
    decide (answer t = some (0, 65535))) = true := by decide

theorem test_blGetDirty : nextIs (exec .blGetDirty (after (exec (.blSetGs false 1#32 2#32) (lfe 1 .big 16)))) (fun t =>
    decide (answer t = some (0, 1))) = true := by decide

/-! ### The Pixel Buffer (V-PX-1 to V-PX-5) -/

theorem test_pxSet : nextIs (exec (.pxSet 2#32 255#32 128#32 0#32 10#32) (lfe 4 .big 16)) (fun t =>
    decide (t.px = [Pixel.zero, Pixel.zero, pixelOfValues 255 128 0 10, Pixel.zero])) = true := by decide

theorem test_pxSet_index_at_capacity : nextIs (exec (.pxSet 4#32 999#32 2#32 3#32 4#32) abcd) (fun t =>
    decide (answer t = some (2, 0) ∧ t.px = abcd.px)) = true := by decide

theorem test_channel_setters :
    nextIs (exec (.pxSetR 1#32 9#32) abcd) (fun t => decide (t.px[1]? = some (pixelOfValues 9 2 2 2))) = true ∧
    nextIs (exec (.pxSetG 1#32 9#32) abcd) (fun t => decide (t.px[1]? = some (pixelOfValues 2 9 2 2))) = true ∧
    nextIs (exec (.pxSetB 1#32 9#32) abcd) (fun t => decide (t.px[1]? = some (pixelOfValues 2 2 9 2))) = true ∧
    nextIs (exec (.pxSetBrt 1#32 255#32) abcd) (fun t => decide (t.px[1]? = some (pixelOfValues 2 2 2 255))) = true := by
  decide

theorem test_channel_setter_value : nextIs (exec (.pxSetBrt 2#32 256#32) abcd) (fun t =>
    decide (answer t = some (1, 0) ∧ t.px = abcd.px)) = true := by decide

theorem test_channel_getters :
    let s := { abcd with px := [Pixel.zero, Pixel.zero, pixelOfValues 255 128 0 10, Pixel.zero] }
    [Instr.pxGetR 2#32, .pxGetG 2#32, .pxGetB 2#32, .pxGetBrt 2#32, .pxGetR 4#32].map (fun i => answer (after (exec i s))) =
      [some (0, 255), some (0, 128), some (0, 0), some (0, 10), some (2, 0)] := by decide

theorem test_pxFill : nextIs (exec (.pxFill 0#32 0#32 255#32 3#32) abcd) (fun t =>
    decide (t.px = List.replicate 4 (pixelOfValues 0 0 255 3))) = true ∧
    nextIs (exec (.pxFill 1#32 1#32 1#32 300#32) abcd) (fun t =>
      decide (answer t = some (1, 0) ∧ t.px = abcd.px)) = true := by decide

theorem test_pxPushFront : nextIs (exec (.pxPushFront 5#32 5#32 5#32 5#32) abcd) (fun t =>
    decide (t.px = [grey 5, grey 1, grey 2, grey 3])) = true := by decide

theorem test_pxPushBack : nextIs (exec (.pxPushBack 5#32 5#32 5#32 5#32) abcd) (fun t =>
    decide (t.px = [grey 2, grey 3, grey 4, grey 5])) = true := by decide

theorem test_pxRotL : nextIs (exec .pxRotL abcd) (fun t => decide (t.px = [grey 2, grey 3, grey 4, grey 1])) = true := by
  decide

theorem test_pxRotR : nextIs (exec .pxRotR abcd) (fun t => decide (t.px = [grey 4, grey 1, grey 2, grey 3])) = true := by
  decide

theorem test_pxClear : nextIs (exec .pxClear abcd) (fun t => decide (t.px = List.replicate 4 (grey 0))) = true := by decide

/-- The example of R189. -/
theorem test_pxShow : nextIs (exec .pxShow (answering .ok { lfe 2 .big 16 with
    px := [pixelOfValues 1 2 3 4, pixelOfValues 5 6 7 8] })) (fun t => decide (answer t = some (0, 0) ∧
    t.frames = [{ target := .strip, bytes := [1#8, 2#8, 3#8, 4#8, 5#8, 6#8, 7#8, 8#8] }])) = true := by decide

theorem test_pxTeardown :
    nextIs (exec .pxTeardown abcd) (fun t => decide (t.live = false) &&
      refusedFor (exec (.pxSet 9#32 999#32 0#32 0#32 0#32) t) .pixelBufferTornDown &&
      nextIs (exec (.blGetBc false) t) (fun u => decide (answer u = some (0, 127)))) = true := by decide

/-- A reset between commands (R250). -/
theorem test_reset_input : nextIs (step { abcd with inputs := [.reset], bc0 := 3#7, live := false, cur := 5 }) (fun t =>
    decide (t.px = List.replicate 4 Pixel.zero ∧ t.bc0 = 127#7 ∧ t.live = true ∧ t.cur = 0 ∧ t.responses = [])) = true := by
  decide

/-! ### Witnesses: the hypotheses of each statement are met -/

/-- Two bytes written at 0 and 1, the cursor at 0. -/
def twoBytes : State := { lfe 4 .big 16 with cbuf := [(0, 0x12#8), (1, 0x34#8)] }

theorem witness_StepRunsDecodedCommand :
    decode [0x00000012#32] = .ok (.blFlush, []) ∧
    { lfe 4 .big 16 with inputs := [.word 0x12#32, .reset] }.inputs = [0x00000012#32].map HostInput.word ++ [.reset] :=
  ⟨rfl, rfl⟩

theorem witness_DecodeInvertsEncode : (Instr.cdcEncAt 4#3 0xFFFFFFFF#32 0#32 1#32).wellFormed = true := by decide

theorem witness_EncodeInvertsDecode :
    decode [0x00000404#32, 0xFFFFFFFF#32, 7#32] = .ok (.cdcDecAt 4#3 0xFFFFFFFF#32, [7#32]) := rfl

/-- One word for each clause: RSV, OP (both ends of each range), F or C user, W user, unused and reserved, other opcodes. -/
theorem witness_ReservedEncodingsRefused :
    0x00010012 / 2 ^ 16 ≠ 0 ∧
    [0x00, 0x07, 0x0F, 0x16, 0x1F, 0x31, 0xFF].all (fun op => decide (op = 0x00 ∨ (0x07 ≤ op ∧ op ≤ 0x0F) ∨
      (0x16 ≤ op ∧ op ≤ 0x1F) ∨ (0x31 ≤ op ∧ op ≤ 0xFF))) = true ∧
    (0x0210 % 2 ^ 8 = 0x10 ∧ 0x0210 / 2 ^ 8 % 2 ^ 8 / 2 ≠ 0) ∧
    (0x0901 % 2 ^ 8 = 0x01 ∧ 0x0901 / 2 ^ 8 % 2 ^ 8 / 8 ≠ 0) ∧ (0x0504 % 2 ^ 8 = 0x04 ∧ 0x0504 / 2 ^ 8 % 2 ^ 8 % 8 = 5) ∧
    (0x0120 % 2 ^ 8 = 0x20 ∧ 0x0120 / 2 ^ 8 % 2 ^ 8 ≠ 0) ∧ (0x8030 % 2 ^ 8 = 0x30 ∧ 0x8030 / 2 ^ 8 % 2 ^ 8 ≠ 0) := by decide

theorem witness_PartialCommandWaits :
    (lfe 4 .big 16).inputs = [] ∧ (Instr.pxSet 0#32 0#32 0#32 0#32 0#32).wellFormed = true ∧
    (0 < 1 ∧ 5 < (encode (.pxSet 0#32 0#32 0#32 0#32 0#32)).length) ∧
    { lfe 4 .big 16 with inputs := [.word 0x10#32] }.inputs =
      ((encode (.blSetBc false 0#32 0#32)).take 1).map HostInput.word ∧
    { lfe 4 .big 16 with inputs := [.word 0x10#32, .reset] }.inputs =
      ((encode (.blSetBc false 0#32 0#32)).take 1).map HostInput.word ++ .reset :: [] := by decide

theorem witness_ResetLeavesTabulatedValues :
    { abcd with inputs := [.reset, .word 0x12#32] }.inputs = .reset :: [.word 0x12#32] := rfl

theorem witness_ResetMeetsInvariant : (lfe 1 .little 8).config.wellFormed = true := by decide

theorem witness_StepKeepsInvariant : { twoBytes with cur := 16, inputs := [.word 0x2E#32] }.Inv ∧
    step { twoBytes with inputs := [.word 0x2E#32] } =
      .next (after (step { twoBytes with inputs := [.word 0x2E#32] })) := ⟨by decide, rfl⟩

theorem witness_StepKeepsConfiguration : step { abcd with inputs := [.reset] } =
    .next (after (step { abcd with inputs := [.reset] })) := rfl

theorem witness_PixelBufferLengthIsFixed : abcd.px.length = abcd.config.pixelCount ∧
    step { abcd with inputs := [.word 0x2C#32] } = .next (after (step { abcd with inputs := [.word 0x2C#32] })) := ⟨rfl, rfl⟩

theorem witness_CommandsWriteOnlyTheirOwnPart : exec .pxRotL abcd = .next (after (exec .pxRotL abcd)) ∧
    familyOf .pxRotL ≠ .backlight ∧ exec .cdcRewind abcd = .next (after (exec .cdcRewind abcd)) ∧
    familyOf .cdcRewind ≠ .pixel ∧ exec (.blSetBc false 1#32 2#32) abcd = .next (after (exec (.blSetBc false 1#32 2#32) abcd)) ∧
    familyOf (.blSetBc false 1#32 2#32) ≠ .codec := ⟨rfl, by decide, rfl, by decide, rfl, by decide⟩

theorem witness_CommandsReadOnlyTheirOwnPart :
    sameOwned (familyOf .blFlush) abcd { abcd with px := [], cur := 3 } ∧ samePorts abcd { abcd with px := [], cur := 3 } :=
  ⟨⟨rfl, rfl, rfl, rfl, rfl⟩, ⟨rfl, rfl, rfl, rfl, rfl, rfl⟩⟩

theorem witness_BuildOrderGovernsCodecOnly : familyOf .pxShow ≠ .codec ∧ familyOf .blFlush ≠ .codec := by decide

theorem witness_EveryCompletedCommandAnswersOnce : exec (.blGetGs true) abcd = .next (after (exec (.blGetGs true) abcd)) :=
  rfl

theorem witness_OnlyTransmittersWriteFrames : exec .pxShow abcd = .next (after (exec .pxShow abcd)) ∧
    exec (.blSetBc true 128#32 0#32) abcd = .next (after (exec (.blSetBc true 128#32 0#32) abcd)) := ⟨rfl, rfl⟩

theorem witness_TransportAnswersSurfaceVerbatim : exec .blFlush abcd = .next (after (exec .blFlush abcd)) ∧
    (after (exec .blFlush abcd)).frames ≠ abcd.frames := ⟨rfl, by decide⟩

/-- A rejected set, and a flushing set of each kind whose write fails. -/
theorem witness_ErrorsLeaveStateUnchanged :
    let s := answering .writeFailed abcd
    (exec (.pxSetR 4#32 0#32) s = .next (after (exec (.pxSetR 4#32 0#32) s)) ∧
      (after (exec (.pxSetR 4#32 0#32) s)).responses = s.responses ++ [{ status := 0x02#8, data := 0#64 }]) ∧
    (exec (.blSetBc true 127#32 0#32) s = .next (after (exec (.blSetBc true 127#32 0#32) s)) ∧
      (after (exec (.blSetBc true 127#32 0#32) s)).responses = s.responses ++ [{ status := 0x07#8, data := 0#64 }]) ∧
    (exec (.blSetGs true 65535#32 0#32) s = .next (after (exec (.blSetGs true 65535#32 0#32) s)) ∧
      (after (exec (.blSetGs true 65535#32 0#32) s)).responses = s.responses ++ [{ status := 0x07#8, data := 0#64 }]) :=
  ⟨⟨rfl, rfl⟩, ⟨rfl, rfl⟩, ⟨rfl, rfl⟩⟩

theorem witness_StopsHaveTheirStatedCauses :
    ((Instr.cdcEnc 0#3 256#32 0#32).wellFormed = true ∧ exec (.cdcEnc 0#3 256#32 0#32) abcd = .refused .codecValueRange) ∧
    ((Instr.cdcDec 4#3).wellFormed = true ∧ exec (.cdcDec 4#3) { abcd with cur := 9 } = .refused .codecBounds) ∧
    ((Instr.pxShow).wellFormed = true ∧ exec .pxShow { abcd with live := false } = .refused .pixelBufferTornDown) ∧
    exec (.cdcDec 0#3) abcd = .fault .unwrittenCodecByte ∧ familyOf (.blGetBc true) = .backlight :=
  ⟨⟨rfl, rfl⟩, ⟨rfl, rfl⟩, ⟨rfl, rfl⟩, rfl, rfl⟩

/-- The same stops in the fixed-offset mode, at the boundary: value 2^8, the access one byte past CB = 16, and a decode that
ends at CB whose bytes nothing wrote (R103, R104; the cases of 95_test_vectors.md V-CDC-4 to V-CDC-6 at CB = 16). -/
theorem witness_StopsHaveTheirStatedCauses_at :
    ((Instr.cdcEncAt 0#3 256#32 0#32 0#32).wellFormed = true ∧
      exec (.cdcEncAt 0#3 256#32 0#32 0#32) abcd = .refused .codecValueRange) ∧
    ((Instr.cdcEncAt 1#3 65535#32 0#32 15#32).wellFormed = true ∧
      exec (.cdcEncAt 1#3 65535#32 0#32 15#32) abcd = .refused .codecBounds) ∧
    ((Instr.cdcDecAt 1#3 15#32).wellFormed = true ∧ exec (.cdcDecAt 1#3 15#32) abcd = .refused .codecBounds) ∧
    exec (.cdcDecAt 1#3 14#32) abcd = .fault .unwrittenCodecByte := ⟨⟨rfl, rfl⟩, ⟨rfl, rfl⟩, ⟨rfl, rfl⟩, rfl⟩

theorem witness_DirtyFollowsSettersAndOkAnswers :
    exec (.blSetBc true 127#32 127#32) abcd = .next (after (exec (.blSetBc true 127#32 127#32) abcd)) ∧
    exec (.blSetGs false 65535#32 65535#32) abcd = .next (after (exec (.blSetGs false 65535#32 65535#32) abcd)) ∧
    exec .blFlush abcd = .next (after (exec .blFlush abcd)) ∧
    (after (exec (.blSetGs false 65535#32 65535#32) abcd)).dirty ≠ abcd.dirty := ⟨rfl, rfl, rfl, by decide⟩

theorem witness_DirtyReadOnlyByItsGetter : Instr.blFlush ≠ .blGetDirty ∧
    exec .blFlush abcd = .next (after (exec .blFlush abcd)) := ⟨by decide, rfl⟩

theorem witness_LightRegistersWrittenOnlyBySetters :
    exec (.blSetBc false 0#32 127#32) abcd = .next (after (exec (.blSetBc false 0#32 127#32) abcd)) ∧
    (after (exec (.blSetBc false 0#32 127#32) abcd)).bc0 ≠ abcd.bc0 ∧
    exec (.blSetGs false 0#32 65535#32) abcd = .next (after (exec (.blSetGs false 0#32 65535#32) abcd)) ∧
    (after (exec (.blSetGs false 0#32 65535#32) abcd)).gs0 ≠ abcd.gs0 := ⟨rfl, by decide, rfl, by decide⟩

theorem witness_LiveFallsByTeardownRisesByReset :
    (exec .pxTeardown abcd = .next (after (exec .pxTeardown abcd)) ∧ (after (exec .pxTeardown abcd)).live ≠ abcd.live) ∧
    step { abcd with live := false, inputs := [.reset] } =
      .next (after (step { abcd with live := false, inputs := [.reset] })) ∧
    (after (step { abcd with live := false, inputs := [.reset] })).live = true := ⟨⟨rfl, by decide⟩, rfl, by decide⟩

theorem witness_ConversionsAreInverse : 2 ^ 64 - 1 < 2 ^ widthBits .w64 ∧ 255 < 2 ^ widthBits .w8 ∧
    [0x80#8, 0x00#8, 0xFF#8].length = widthBytes .w24 := by decide

theorem witness_ConversionsPlaceEveryByte : 7 < widthBytes .w64 ∧ 7 < 8 ∧ 0 < widthBytes .w8 ∧
    [0xFF#8, 0xFF#8].length = widthBytes .w16 := by decide

theorem witness_CdcEncStoresAtCursor : widthOfCode 4#3 = some .w64 ∧
    (0xFFFFFFFF#32).toNat + 2 ^ 32 * (0xFFFFFFFF#32).toNat < 2 ^ widthBits .w64 ∧
    { twoBytes with cur := 8 }.cur + widthBytes .w64 ≤ twoBytes.config.codecBufBytes := by decide

theorem witness_CdcEncAtStoresAtAddress : widthOfCode 0#3 = some .w8 ∧
    (255#32).toNat + 2 ^ 32 * (0#32).toNat < 2 ^ widthBits .w8 ∧
    (15#32).toNat + widthBytes .w8 ≤ twoBytes.config.codecBufBytes := by decide

theorem witness_CdcDecReadsAtCursor : widthOfCode 1#3 = some .w16 ∧
    twoBytes.cur + widthBytes .w16 ≤ twoBytes.config.codecBufBytes ∧ [0x12#8, 0x34#8].length = widthBytes .w16 ∧
    ∀ j, j < widthBytes .w16 → readByte twoBytes.cbuf (twoBytes.cur + j) = [0x12#8, 0x34#8][j]? := by decide

theorem witness_CdcDecAtReadsAtAddress : widthOfCode 0#3 = some .w8 ∧
    (1#32).toNat + widthBytes .w8 ≤ twoBytes.config.codecBufBytes ∧ [0x34#8].length = widthBytes .w8 ∧
    ∀ j, j < widthBytes .w8 → readByte twoBytes.cbuf ((1#32).toNat + j) = [0x34#8][j]? := by decide

theorem witness_CursorRewinds : (lfe 1 .big 8).cur = 0 := rfl

theorem witness_CursorIsRead : { twoBytes with cur := 2 ^ 64 - 1 }.cur < 2 ^ 64 := by decide

/-- One for each clause: a reserved code, the least value out of range, the least bounds error at the cursor and at an
address, the latter with the largest address. -/
theorem witness_CodecContractRefusals : widthOfCode 5#3 = none ∧
    (widthOfCode 3#3 = some .w32 ∧ 2 ^ widthBits .w32 ≤ (0#32).toNat + 2 ^ 32 * (1#32).toNat) ∧
    (widthOfCode 0#3 = some .w8 ∧ twoBytes.config.codecBufBytes < { twoBytes with cur := 16 }.cur + widthBytes .w8 ∧
      (255#32).toNat + 2 ^ 32 * (0#32).toNat < 2 ^ widthBits .w8) ∧
    (widthOfCode 1#3 = some .w16 ∧ twoBytes.config.codecBufBytes < (15#32).toNat + widthBytes .w16 ∧
      twoBytes.config.codecBufBytes < (0xFFFFFFFF#32).toNat + widthBytes .w16 ∧
      (65535#32).toNat + 2 ^ 32 * (0#32).toNat < 2 ^ widthBits .w16) := by decide

theorem witness_UnwrittenByteFaults : widthOfCode 2#3 = some .w24 ∧ 0 + widthBytes .w24 ≤ twoBytes.config.codecBufBytes ∧
    2 < widthBytes .w24 ∧ written twoBytes.cbuf (0 + 2) = false ∧ 0 = twoBytes.cur ∧ (0#32).toNat = 0 := by decide

theorem witness_EncodeThenDecodeAnswersValue :
    exec (.cdcEncAt 3#3 0x11223344#32 0#32 12#32) twoBytes =
      .next (after (exec (.cdcEncAt 3#3 0x11223344#32 0#32 12#32) twoBytes)) ∧
    exec (.cdcEnc 4#3 1#32 2#32) twoBytes = .next (after (exec (.cdcEnc 4#3 1#32 2#32) twoBytes)) := ⟨rfl, rfl⟩

theorem witness_EncodeModesAgree : (0#32).toNat = twoBytes.cur ∧
    exec (.cdcEncAt 1#3 65535#32 0#32 0#32) twoBytes = .next (after (exec (.cdcEncAt 1#3 65535#32 0#32 0#32) twoBytes)) ∧
    exec (.cdcEncAt 1#3 65536#32 0#32 0#32) twoBytes = .refused .codecValueRange := ⟨rfl, rfl, rfl⟩

theorem witness_CodecNeverReportsErrors : familyOf .cdcGetCursor = .codec ∧
    exec .cdcGetCursor twoBytes = .next (after (exec .cdcGetCursor twoBytes)) := ⟨rfl, rfl⟩

theorem witness_BacklightFrameLayout : 0 < 12 ∧ 11 < 12 := by decide

theorem witness_ExampleStateFrame :
    let s := { abcd with bc0 := 127#7, bc1 := 0#7, gs0 := 65535#16, gs1 := 0#16 }
    s.bc0 = 127#7 ∧ s.bc1 = 0#7 ∧ s.gs0 = 65535#16 ∧ s.gs1 = 0#16 ∧ s.config.wrcmd = 0x25#6 ∧
      s.config.fctrl = 0b10110#5 := by decide

theorem witness_SetBrightnessStoresBoth : (127 < (128#32).toNat ∧ 127 < (0xFFFFFFFF#32).toNat) ∧
    (127#32).toNat ≤ 127 ∧ (0#32).toNat ≤ 127 ∧
    { abcd with bc0 := 127#7, bc1 := 0#7, dirty := true } =
      { abcd with bc0 := BitVec.ofNat 7 (127#32).toNat, bc1 := BitVec.ofNat 7 (0#32).toNat, dirty := true } := by decide

theorem witness_SetGrayscaleStoresBoth : 65535 < (65536#32).toNat ∧ (65535#32).toNat ≤ 65535 ∧ (0#32).toNat ≤ 65535 ∧
    { abcd with gs0 := 65535#16, gs1 := 0#16, dirty := true } =
      { abcd with gs0 := BitVec.ofNat 16 (65535#32).toNat, gs1 := BitVec.ofNat 16 (0#32).toNat, dirty := true } := by decide

theorem witness_SetThenGetReturnsInput :
    let s := answering .writeFailed abcd
    (exec (.blSetBc true 127#32 1#32) s = .next (after (exec (.blSetBc true 127#32 1#32) s)) ∧
      (after (exec (.blSetBc true 127#32 1#32) s)).responses = s.responses ++ [{ status := 0x07#8, data := 0#64 }]) ∧
    (exec (.blSetBc false 128#32 1#32) s = .next (after (exec (.blSetBc false 128#32 1#32) s)) ∧
      (after (exec (.blSetBc false 128#32 1#32) s)).responses = s.responses ++ [{ status := 0x01#8, data := 0#64 }]) ∧
    (exec (.blSetGs false 65535#32 1#32) s = .next (after (exec (.blSetGs false 65535#32 1#32) s)) ∧
      (after (exec (.blSetGs false 65535#32 1#32) s)).responses = s.responses ++ [{ status := 0x00#8, data := 0#64 }]) ∧
    (exec (.blSetGs false 1#32 65536#32) s = .next (after (exec (.blSetGs false 1#32 65536#32) s)) ∧
      (after (exec (.blSetGs false 1#32 65536#32) s)).responses = s.responses ++ [{ status := 0x01#8, data := 0#64 }]) :=
  ⟨⟨rfl, rfl⟩, ⟨rfl, rfl⟩, ⟨rfl, rfl⟩, ⟨rfl, rfl⟩⟩

theorem witness_RetransmissionIsIdempotent :
    exec .blFlush abcd = .next (after (exec .blFlush abcd)) ∧
    exec .blFlush (after (exec .blFlush abcd)) = .next (after (exec .blFlush (after (exec .blFlush abcd)))) ∧
    exec .pxShow abcd = .next (after (exec .pxShow abcd)) ∧
    exec .pxShow (after (exec .pxShow abcd)) = .next (after (exec .pxShow (after (exec .pxShow abcd)))) :=
  ⟨rfl, rfl, rfl, rfl⟩

theorem witness_TornDownBufferRefuses : familyOf .pxTeardown = .pixel ∧ { abcd with live := false }.live = false :=
  ⟨rfl, rfl⟩

theorem witness_IndexCheckedBeforeAll : abcd.live = true ∧ pixelIndex (.pxSetG 4#32 256#32) = some 4#32 ∧
    abcd.config.pixelCount ≤ (4#32).toNat ∧ abcd.config.pixelCount ≤ (0xFFFFFFFF#32).toNat := by decide

theorem witness_ValuesCheckedBeforeWrite : abcd.live = true ∧
    pixelIndex (.pxSet 3#32 0#32 0#32 0#32 256#32) = some 3#32 ∧ (3#32).toNat < abcd.config.pixelCount ∧
    256#32 ∈ pixelValues (.pxSet 3#32 0#32 0#32 0#32 256#32) ∧ pixelIndex (.pxFill 0#32 256#32 0#32 0#32) = none ∧
    256#32 ∈ pixelValues (.pxFill 0#32 256#32 0#32 0#32) ∧ 255 < (256#32).toNat := by decide

theorem witness_PxSetWritesOnePixel : abcd.live = true ∧ abcd.px.length = abcd.config.pixelCount ∧
    (3#32).toNat < abcd.config.pixelCount ∧ (255#32).toNat ≤ 255 ∧ (0#32).toNat ≤ 255 := by decide

theorem witness_ChannelSettersWriteOneChannel : abcd.live = true ∧ (3#32).toNat < abcd.config.pixelCount ∧
    abcd.px[(3#32).toNat]? = some (grey 4) ∧ (255#32).toNat ≤ 255 := by decide

theorem witness_ChannelGettersAnswer : abcd.live = true ∧ (0#32).toNat < abcd.config.pixelCount ∧
    abcd.px[(0#32).toNat]? = some (grey 1) := by decide

theorem witness_FillAndClearSetEveryPixel : abcd.live = true ∧ (255#32).toNat ≤ 255 ∧ (0#32).toNat ≤ 255 := by decide

theorem witness_PushesInsertAndDrop : (lfe 1 .big 8).live = true ∧
    (lfe 1 .big 8).px.length = (lfe 1 .big 8).config.pixelCount ∧ 1 ≤ (lfe 1 .big 8).config.pixelCount ∧
    (255#32).toNat ≤ 255 := by decide

theorem witness_RotationsMoveOneEnd : abcd.live = true ∧ abcd.px.length = abcd.config.pixelCount ∧
    { abcd with live := false }.live = false ∧ (lfe 1 .big 8).live = true ∧
    (lfe 1 .big 8).px.length = (lfe 1 .big 8).config.pixelCount ∧ (lfe 1 .big 8).config.pixelCount = 1 := by decide

theorem witness_RotationsAreInversePermutations : (lfe 1 .big 8).live = true ∧
    (lfe 1 .big 8).px.length = (lfe 1 .big 8).config.pixelCount := by decide

theorem witness_FullTurnRestoresBuffer : abcd.live = true ∧ abcd.px.length = abcd.config.pixelCount := by decide

theorem witness_StripFrameLayout : abcd.px.length = abcd.config.pixelCount ∧ abcd.px[3]? = some (grey 4) := by decide

theorem witness_ShowTransmitsBuffer : abcd.live = true ∧ { abcd with live := false }.live = false := ⟨rfl, rfl⟩

theorem witness_TeardownEndsTheBuffer : abcd.live = true ∧
    { abcd with live := false }.live = false ∧ familyOf (.pxGetR 0#32) = .pixel ∧ familyOf .cdcRewind ≠ .pixel ∧
    after (exec .pxTeardown abcd) = State.answered { abcd with live := false } 0x00#8 0#64 := by decide

end Sys2Proof.Tests
end

section
/-! The parameters of the instance are written by no command and by no reset (00_scope.md R9, 10_state.md R31,
70_reset_and_hazards.md R252). -/

namespace Sys2Proof.Machine

theorem transmitBacklight_keeps_config {s t : State} (h : transmitBacklight s = .next t) : t.config = s.config := by
  simp [transmitBacklight_next h]

theorem finishSet_keeps_config {f : Bool} {s t : State} (h : finishSet f s = .next t) : t.config = s.config := by
  rcases finishSet_next h with ⟨-, h⟩ | ⟨-, rfl⟩
  · exact transmitBacklight_keeps_config h
  · simp

theorem exec_codec_keeps_config {i : Instr} {s t : State} (hf : familyOf i = .codec) (h : exec i s = .next t) :
    t.config = s.config := by
  obtain ⟨m, c, d, rfl, -⟩ := exec_codec_next hf h
  simp

theorem exec_backlight_keeps_config {i : Instr} {s t : State} (hf : familyOf i = .backlight)
    (h : exec i s = .next t) : t.config = s.config := by
  rcases exec_backlight_next hf h with
    ⟨d, rfl, -⟩ | ⟨rfl, -⟩ | ⟨f, a, b, -, -, hset⟩ | ⟨f, a, b, -, -, hset⟩ | ⟨-, hflush⟩
  · simp
  · simp
  · simpa using finishSet_keeps_config hset
  · simpa using finishSet_keeps_config hset
  · exact transmitBacklight_keeps_config hflush

theorem exec_pixel_keeps_config {i : Instr} {s t : State} (hf : familyOf i = .pixel) (h : exec i s = .next t) :
    t.config = s.config := by
  obtain ⟨-, rfl | rfl | ⟨d, rfl, -⟩ | ⟨new, rfl, -⟩ | ⟨-, rfl⟩ | ⟨-, rfl⟩⟩ := exec_pixel_next hf h <;> simp

/-- Every command belongs to one of the three parts, and none of them writes the parameters. -/
theorem exec_keeps_config {i : Instr} {s t : State} (h : exec i s = .next t) : t.config = s.config := by
  cases hf : familyOf i with
  | codec => exact exec_codec_keeps_config hf h
  | backlight => exact exec_backlight_keeps_config hf h
  | pixel => exact exec_pixel_keeps_config hf h

/-- Settles O10: a step waits, takes a reset, or performs a command, and each of the three keeps the parameters. -/
theorem stepKeepsConfiguration : Obligations.StepKeepsConfiguration := by
  intro s t h
  rcases step_next_cases h with ⟨-, rfl⟩ | ⟨rest, -, rfl⟩ | ⟨i, rest, -, hexec⟩
  · rfl
  · exact s.takeReset_config rest
  · simpa using exec_keeps_config hexec

end Sys2Proof.Machine
end


section
/-! The three parts of the LFE (10_state.md R35): a command writes only the state of its own part. -/

namespace Sys2Proof.Machine

/-- A codec command writes the codec buffer and the cursor, and neither of the other two parts. -/
theorem exec_codec_keeps_others {i : Instr} {s t : State} (hf : familyOf i = .codec) (h : exec i s = .next t) :
    sameOwned .backlight s t ∧ sameOwned .pixel s t := by
  obtain ⟨m, c, d, rfl, -⟩ := exec_codec_next hf h
  simp [sameOwned]

/-- The end of a Backlight command, by a transmission or at once, writes neither of the other two parts. -/
theorem finishSet_keeps_others {f : Bool} {s t : State} (h : finishSet f s = .next t) :
    sameOwned .codec s t ∧ sameOwned .pixel s t := by
  rcases finishSet_next h with ⟨-, h⟩ | ⟨-, rfl⟩
  · simp [transmitBacklight_next h, sameOwned]
  · simp [sameOwned]

/-- BL_FLUSH ends as a flushing setter does (41_backlight.md R143). -/
theorem transmitBacklight_eq_finishSet (s : State) : transmitBacklight s = finishSet true s := rfl

theorem exec_backlight_keeps_others {i : Instr} {s t : State} (hf : familyOf i = .backlight)
    (h : exec i s = .next t) : sameOwned .codec s t ∧ sameOwned .pixel s t := by
  rcases exec_backlight_next hf h with
    ⟨d, rfl, -⟩ | ⟨rfl, -⟩ | ⟨f, a, b, -, -, hset⟩ | ⟨f, a, b, -, -, hset⟩ | ⟨-, hflush⟩
  · simp [sameOwned]
  · simp [sameOwned]
  · simpa [sameOwned] using finishSet_keeps_others hset
  · simpa [sameOwned] using finishSet_keeps_others hset
  · exact finishSet_keeps_others (transmitBacklight_eq_finishSet s ▸ hflush)

theorem exec_pixel_keeps_others {i : Instr} {s t : State} (hf : familyOf i = .pixel) (h : exec i s = .next t) :
    sameOwned .codec s t ∧ sameOwned .backlight s t := by
  obtain ⟨-, rfl | rfl | ⟨d, rfl, -⟩ | ⟨new, rfl, -⟩ | ⟨-, rfl⟩ | ⟨-, rfl⟩⟩ := exec_pixel_next hf h <;>
    simp [sameOwned]

/-- Settles O12: each part's commands keep the state of the other two. -/
theorem commandsWriteOnlyTheirOwnPart : Obligations.CommandsWriteOnlyTheirOwnPart := by
  intro i s t f h hne
  cases hf : familyOf i with
  | codec =>
    obtain ⟨hbacklight, hpixel⟩ := exec_codec_keeps_others hf h
    cases f
    exacts [absurd hf hne, hbacklight, hpixel]
  | backlight =>
    obtain ⟨hcodec, hpixel⟩ := exec_backlight_keeps_others hf h
    cases f
    exacts [hcodec, absurd hf hne, hpixel]
  | pixel =>
    obtain ⟨hcodec, hbacklight⟩ := exec_pixel_keeps_others hf h
    cases f
    exacts [hcodec, hbacklight, absurd hf hne]

end Sys2Proof.Machine
end

section
/-! Reset and the state invariant (10_state.md R27 to R29, R36, R37). -/

namespace Sys2Proof.Machine

/-- No command changes the Pixel Buffer's length where it is N (R27). -/
theorem exec_keeps_px_length {i : Instr} {s t : State} (hlen : s.px.length = s.config.pixelCount)
    (h : exec i s = .next t) : t.px.length = s.px.length := by
  cases hf : familyOf i with
  | codec =>
    obtain ⟨-, hpx, -⟩ := exec_codec_keeps_others hf h
    rw [hpx]
  | backlight =>
    obtain ⟨-, hpx, -⟩ := exec_backlight_keeps_others hf h
    rw [hpx]
  | pixel =>
    obtain ⟨-, rfl | rfl | ⟨d, rfl, -⟩ | ⟨new, rfl, hnew⟩ | ⟨-, rfl⟩ | ⟨-, rfl⟩⟩ := exec_pixel_next hf h
    case inr.inr.inr.inl => simpa using hnew hlen
    all_goals simp

/-- Settles O11: a command keeps the length, and a reset makes it N again. -/
theorem pixelBufferLengthIsFixed : Obligations.PixelBufferLengthIsFixed := by
  intro s t hlen h
  refine ⟨congrArg Config.pixelCount (stepKeepsConfiguration s t h), ?_⟩
  rcases step_next_cases h with ⟨-, rfl⟩ | ⟨rest, -, rfl⟩ | ⟨i, rest, -, hexec⟩
  · rfl
  · simp [hlen]
  · exact exec_keeps_px_length (s := s.withInputs rest) hlen hexec

theorem State.resetOf_inv {c : Config} (hc : c.wellFormed = true) : (State.resetOf c).Inv := by
  simp [State.Inv, Memory.wf, hc]

/-- Settles O8; the parameters of the sample are in range. -/
theorem resetMeetsInvariant : Obligations.ResetMeetsInvariant :=
  ⟨fun _ => State.resetOf_inv, State.resetOf_inv (by decide)⟩

/-- The invariant speaks of the codec's state, the parameters and the Pixel Buffer's length only. -/
theorem State.Inv.of_sameOwned_codec {s t : State} (hs : s.Inv) (hcodec : sameOwned .codec s t)
    (hconfig : t.config = s.config) (hlen : t.px.length = s.px.length) : t.Inv := by
  obtain ⟨hcbuf, hcur⟩ := hcodec
  simpa only [State.Inv, hcbuf, hcur, hconfig, hlen] using hs

theorem exec_codec_keeps_inv {i : Instr} {s t : State} (hf : familyOf i = .codec) (hs : s.Inv)
    (h : exec i s = .next t) : t.Inv := by
  obtain ⟨hconfig, hlen, hcur, hwf, hin⟩ := hs
  obtain ⟨m, c, d, rfl, -, hc, hm, hmem⟩ := exec_codec_next hf h
  refine ⟨hconfig, hlen, hc hcur, hm hwf, fun cell hcell => ?_⟩
  rcases hmem cell.1 (List.mem_map_of_mem hcell) with hlt | hold
  · exact hlt
  · obtain ⟨old, hold, heq⟩ := List.mem_map.mp hold
    exact heq ▸ hin old hold

/-- Only the codec's commands write what the invariant says of the codec; the others keep the rest of it. -/
theorem exec_keeps_inv {i : Instr} {s t : State} (hs : s.Inv) (h : exec i s = .next t) : t.Inv := by
  have hlen : t.px.length = s.px.length := by
    obtain ⟨-, hlen, -⟩ := hs
    exact exec_keeps_px_length hlen h
  cases hf : familyOf i with
  | codec => exact exec_codec_keeps_inv hf hs h
  | backlight => exact hs.of_sameOwned_codec (exec_backlight_keeps_others hf h).1 (exec_keeps_config h) hlen
  | pixel => exact hs.of_sameOwned_codec (exec_pixel_keeps_others hf h).1 (exec_keeps_config h) hlen

/-- Settles O9: a step waits, or takes a reset to the reset values, or performs a command that keeps the invariant. -/
theorem stepKeepsInvariant : Obligations.StepKeepsInvariant := by
  intro s t hs h
  rcases step_next_cases h with ⟨-, rfl⟩ | ⟨rest, -, rfl⟩ | ⟨i, rest, -, hexec⟩
  · exact hs
  · exact State.resetOf_inv hs.1
  · exact exec_keeps_inv (s := s.withInputs rest) hs hexec

theorem State.resetOf_holdsResetValues (c : Config) : HoldsResetValues c (State.resetOf c) := by
  simp [HoldsResetValues, Pixel.zero, readByte, written]

/-- Settles O7: a reset at the head of the command port is taken by itself. -/
theorem resetLeavesTabulatedValues : Obligations.ResetLeavesTabulatedValues := by
  refine ⟨State.resetOf_holdsResetValues, fun s rest hin => ⟨s.takeReset rest, ?_, ?_, rfl, rfl, rfl, rfl, rfl⟩⟩
  · simp [step, fetch, hin]
  · exact State.resetOf_holdsResetValues s.config

end Sys2Proof.Machine
end

section
/-! A command reads only the state of its own part (10_state.md R35). With the state of the other parts replaced by that
of any other state, a command does the same and keeps the replaced state: `exec` commutes with the replacement. -/

namespace Sys2Proof.Machine

/-- `s` with all that part `f` does not own, but for the parameters and the ports, taken from `u`. -/
def State.graft (s : State) (f : Family) (u : State) : State :=
  match f with
  | .codec =>
    { s with bc0 := u.bc0, bc1 := u.bc1, gs0 := u.gs0, gs1 := u.gs1, dirty := u.dirty, px := u.px, live := u.live }
  | .backlight => { s with cbuf := u.cbuf, cur := u.cur, px := u.px, live := u.live }
  | .pixel =>
    { s with cbuf := u.cbuf, cur := u.cur, bc0 := u.bc0, bc1 := u.bc1, gs0 := u.gs0, gs1 := u.gs1, dirty := u.dirty }

/-- `φ` on the state a command answers, if it answers one. -/
def mapNext (φ : State → State) : Result → Result
  | .next t => .next (φ t)
  | .fault r => .fault r
  | .refused r => .refused r

/-- A state that agrees with `s` on part `f`, the parameters and the ports is `s` with the rest replaced. -/
theorem eq_graft {f : Family} {s u : State} (ho : sameOwned f s u) (hp : samePorts s u) : u = s.graft f u := by
  cases s
  cases u
  cases f <;> simp_all [sameOwned, samePorts, State.graft]

theorem sameOwned_graft (f : Family) (s u : State) : sameOwned f s (s.graft f u) := by
  cases f <;> simp [sameOwned, State.graft]

theorem samePorts_graft (f : Family) (s u : State) : samePorts s (s.graft f u) := by
  cases f <;> simp [samePorts, State.graft]

theorem sameOutcome_mapNext_graft (f : Family) (r : Result) (u : State) :
    sameOutcome f r (mapNext (State.graft · f u) r) := by
  cases r with
  | next t => exact ⟨sameOwned_graft f t u, samePorts_graft f t u⟩
  | fault => rfl
  | refused => rfl

/-! A check of a part's commands reads that part and the parameters only, so it passes the replacement on to what stands
behind it. -/

theorem whenLive_graft {s u : State} {k k' : Result} (hk : k' = mapNext (State.graft · .pixel u) k) :
    whenLive (s.graft .pixel u) k' = mapNext (State.graft · .pixel u) (whenLive s k) := by
  have hlive : (s.graft .pixel u).live = s.live := rfl
  unfold whenLive
  rw [hlive]
  split
  · exact hk
  · rfl

theorem whenIndex_graft {idx : Word} {s u : State} {k k' : Result} (hk : k' = mapNext (State.graft · .pixel u) k) :
    whenIndex idx (s.graft .pixel u) k' = mapNext (State.graft · .pixel u) (whenIndex idx s k) := by
  have hconfig : (s.graft .pixel u).config = s.config := rfl
  unfold whenIndex
  rw [hconfig]
  split
  · rfl
  · exact hk

theorem whenChannels_graft {vs : List Word} {s u : State} {k k' : Result}
    (hk : k' = mapNext (State.graft · .pixel u) k) :
    whenChannels vs (s.graft .pixel u) k' = mapNext (State.graft · .pixel u) (whenChannels vs s k) := by
  unfold whenChannels
  split
  · rfl
  · exact hk

theorem whenEncodable_graft {code : BitVec 3} {v a : Nat} {s u : State} {k k' : Width → Result}
    (hk : ∀ w, k' w = mapNext (State.graft · .codec u) (k w)) :
    whenEncodable code v a (s.graft .codec u) k' = mapNext (State.graft · .codec u) (whenEncodable code v a s k) := by
  have hconfig : (s.graft .codec u).config = s.config := rfl
  unfold whenEncodable
  rw [hconfig]
  split
  · rfl
  · split
    · rfl
    · split
      · rfl
      · exact hk _

theorem whenDecodable_graft {code : BitVec 3} {a : Nat} {s u : State} {k k' : Width → Nat → Result}
    (hk : ∀ w v, k' w v = mapNext (State.graft · .codec u) (k w v)) :
    whenDecodable code a (s.graft .codec u) k' = mapNext (State.graft · .codec u) (whenDecodable code a s k) := by
  have hconfig : (s.graft .codec u).config = s.config := rfl
  have hcbuf : (s.graft .codec u).cbuf = s.cbuf := rfl
  unfold whenDecodable
  rw [hconfig, hcbuf]
  split
  · rfl
  · split
    · rfl
    · split
      · rfl
      · exact hk _ _

theorem finishSet_graft (f : Bool) (s u : State) :
    finishSet f (s.graft .backlight u) = mapNext (State.graft · .backlight u) (finishSet f s) := by
  cases f <;> rfl

theorem setChannel_graft (idx v : Word) (write : Pixel → Byte → Pixel) (s u : State) :
    setChannel idx v write (s.graft .pixel u) = mapNext (State.graft · .pixel u) (setChannel idx v write s) :=
  whenLive_graft (whenIndex_graft (whenChannels_graft rfl))

theorem getChannel_graft (idx : Word) (channel : Pixel → Byte) (s u : State) :
    getChannel idx channel (s.graft .pixel u) = mapNext (State.graft · .pixel u) (getChannel idx channel s) :=
  whenLive_graft (whenIndex_graft rfl)

theorem exec_codec_graft {i : Instr} (hf : familyOf i = .codec) (s u : State) :
    exec i (s.graft .codec u) = mapNext (State.graft · .codec u) (exec i s) := by
  cases i <;> simp only [familyOf, reduceCtorEq] at hf <;> simp only [exec]
  case cdcEnc => exact whenEncodable_graft fun _ => rfl
  case cdcEncAt => exact whenEncodable_graft fun _ => rfl
  case cdcDec => exact whenDecodable_graft fun _ _ => rfl
  case cdcDecAt => exact whenDecodable_graft fun _ _ => rfl
  case cdcRewind => rfl
  case cdcGetCursor => rfl

theorem exec_backlight_graft {i : Instr} (hf : familyOf i = .backlight) (s u : State) :
    exec i (s.graft .backlight u) = mapNext (State.graft · .backlight u) (exec i s) := by
  cases i <;> simp only [familyOf, reduceCtorEq] at hf
  case blSetBc f ch1 ch2 =>
    simp only [exec, execBlSetBc]
    split
    · rfl
    · exact finishSet_graft f ((s.setBc _ _).setDirty true) u
  case blSetGs f ch1 ch2 =>
    simp only [exec, execBlSetGs]
    split
    · rfl
    · exact finishSet_graft f ((s.setGs _ _).setDirty true) u
  case blFlush => exact finishSet_graft true s u
  case blGetBc => rfl
  case blGetGs => rfl
  case blGetDirty => rfl

theorem exec_pixel_graft {i : Instr} (hf : familyOf i = .pixel) (s u : State) :
    exec i (s.graft .pixel u) = mapNext (State.graft · .pixel u) (exec i s) := by
  cases i <;> simp only [familyOf, reduceCtorEq] at hf <;> simp only [exec]
  case pxSet => exact whenLive_graft (whenIndex_graft (whenChannels_graft rfl))
  case pxSetR => exact setChannel_graft ..
  case pxSetG => exact setChannel_graft ..
  case pxSetB => exact setChannel_graft ..
  case pxSetBrt => exact setChannel_graft ..
  case pxGetR => exact getChannel_graft ..
  case pxGetG => exact getChannel_graft ..
  case pxGetB => exact getChannel_graft ..
  case pxGetBrt => exact getChannel_graft ..
  case pxFill => exact whenLive_graft (whenChannels_graft rfl)
  case pxPushFront => exact whenLive_graft (whenChannels_graft rfl)
  case pxPushBack => exact whenLive_graft (whenChannels_graft rfl)
  case pxRotL => exact whenLive_graft rfl
  case pxRotR => exact whenLive_graft rfl
  case pxClear => exact whenLive_graft rfl
  case pxShow => exact whenLive_graft rfl
  case pxTeardown => exact whenLive_graft rfl

/-- A command runs on a state whose foreign parts are replaced as on the state itself, the replaced parts kept. -/
theorem exec_graft (i : Instr) (s u : State) :
    exec i (s.graft (familyOf i) u) = mapNext (State.graft · (familyOf i) u) (exec i s) := by
  cases hf : familyOf i with
  | codec => exact exec_codec_graft hf s u
  | backlight => exact exec_backlight_graft hf s u
  | pixel => exact exec_pixel_graft hf s u

/-- Settles O13: the second state is the first with the other parts replaced. -/
theorem commandsReadOnlyTheirOwnPart : Obligations.CommandsReadOnlyTheirOwnPart := by
  intro i s u ho hp
  rw [eq_graft ho hp, exec_graft]
  exact sameOutcome_mapNext_graft ..

/-! DIRTY, which the Backlight's commands write but only its getter reads (R24). -/

theorem finishSet_setDirty (f : Bool) (s : State) (d : Bool) :
    ∃ d', finishSet f (s.setDirty d) = mapNext (State.setDirty · d') (finishSet f s) := by
  cases f with
  | false => exact ⟨d, rfl⟩
  | true => exact ⟨dirtyAfter s.nextAnswer d, rfl⟩

theorem exec_backlight_setDirty {i : Instr} (hf : familyOf i = .backlight) (hi : i ≠ .blGetDirty) (s : State) (d : Bool) :
    ∃ d', exec i (s.setDirty d) = mapNext (State.setDirty · d') (exec i s) := by
  cases i <;> simp only [familyOf, reduceCtorEq] at hf
  case blSetBc f ch1 ch2 =>
    simp only [exec, execBlSetBc]
    split
    · exact ⟨d, rfl⟩
    · exact finishSet_setDirty f ((s.setBc _ _).setDirty true) true
  case blSetGs f ch1 ch2 =>
    simp only [exec, execBlSetGs]
    split
    · exact ⟨d, rfl⟩
    · exact finishSet_setDirty f ((s.setGs _ _).setDirty true) true
  case blFlush => exact finishSet_setDirty true s d
  case blGetBc => exact ⟨d, rfl⟩
  case blGetGs => exact ⟨d, rfl⟩
  case blGetDirty => exact absurd rfl hi

/-- Settles O21: for the codec and the Pixel Buffer, DIRTY is foreign state, which they neither read nor write. -/
theorem dirtyReadOnlyByItsGetter : Obligations.DirtyReadOnlyByItsGetter := by
  intro i s t d hi h
  cases hf : familyOf i with
  | codec =>
    obtain ⟨m, c, data, rfl, -⟩ := exec_codec_next hf h
    have hrun := exec_codec_graft hf s (s.setDirty d)
    rw [h] at hrun
    exact ⟨d, hrun⟩
  | backlight =>
    obtain ⟨d', hrun⟩ := exec_backlight_setDirty hf hi s d
    rw [h] at hrun
    exact ⟨d', hrun⟩
  | pixel =>
    have hrun := exec_pixel_graft hf s (s.setDirty d)
    rw [h] at hrun
    obtain ⟨-, rfl | rfl | ⟨data, rfl, -⟩ | ⟨new, rfl, -⟩ | ⟨-, rfl⟩ | ⟨-, rfl⟩⟩ := exec_pixel_next hf h
    all_goals exact ⟨d, hrun⟩

end Sys2Proof.Machine
end

section
/-! Who transmits, and who writes the registers of the Backlight Encoder and LIVE (10_state.md R22 to R26, R33). -/

namespace Sys2Proof.Machine

/-! ### Transport writes (R33) -/

/-- A command that reads a value into its response does not transmit. -/
theorem transmitsTo_of_readsValue {i : Instr} (h : readsValue i = true) : transmitsTo i = none := by
  cases i <;> simp_all [readsValue, transmitsTo]

theorem transmitsTo_of_codec {i : Instr} (hf : familyOf i = .codec) : transmitsTo i = none := by
  cases i <;> simp_all [familyOf, transmitsTo]

theorem transmitsTo_of_pixel {i : Instr} (hf : familyOf i = .pixel) (hi : i ≠ .pxShow) : transmitsTo i = none := by
  cases i <;> simp_all [familyOf, transmitsTo]

/-- Nothing was written to the transport and no answer used. -/
def KeepsTransport (s t : State) : Prop := t.frames = s.frames ∧ t.answers = s.answers ∧ t.draws = s.draws

/-- One transaction to `target` was written and one answer used. -/
def WritesOnce (target : Target) (s t : State) : Prop :=
  ∃ bytes, t.frames = s.frames ++ [{ target := target, bytes := bytes }] ∧
    t.answers = s.answers.tail ∧ t.draws = s.draws + 1

theorem finishSet_transport {f : Bool} {s t : State} (h : finishSet f s = .next t) :
    (f = true ∧ WritesOnce .backlight s t) ∨ (f = false ∧ KeepsTransport s t) := by
  rcases finishSet_next h with ⟨hf, h⟩ | ⟨hf, rfl⟩
  · exact .inl ⟨hf, buildFrame s, by simp [transmitBacklight_next h]⟩
  · exact .inr ⟨hf, rfl, rfl, rfl⟩

theorem exec_backlight_transport {i : Instr} {s t : State} (hf : familyOf i = .backlight) (h : exec i s = .next t) :
    (KeepsTransport s t ∧ (transmitsTo i = none ∨ t = s.respond .valueOutOfRange 0#64)) ∨
    (transmitsTo i = some .backlight ∧ WritesOnce .backlight s t) := by
  rcases exec_backlight_next hf h with
    ⟨d, rfl, hread⟩ | ⟨rfl, -⟩ | ⟨f, a, b, rfl, -, hset⟩ | ⟨f, a, b, rfl, -, hset⟩ | ⟨rfl, hflush⟩
  · exact .inl ⟨⟨rfl, rfl, rfl⟩, .inl (transmitsTo_of_readsValue hread)⟩
  · exact .inl ⟨⟨rfl, rfl, rfl⟩, .inr rfl⟩
  · rcases finishSet_transport hset with ⟨rfl, hw⟩ | ⟨rfl, hk⟩
    · exact .inr ⟨rfl, hw⟩
    · exact .inl ⟨hk, .inl rfl⟩
  · rcases finishSet_transport hset with ⟨rfl, hw⟩ | ⟨rfl, hk⟩
    · exact .inr ⟨rfl, hw⟩
    · exact .inl ⟨hk, .inl rfl⟩
  · exact .inr ⟨rfl, buildFrame s, by simp [transmitBacklight_next hflush]⟩

theorem exec_pxShow_transport {s t : State} (h : exec .pxShow s = .next t) : WritesOnce .strip s t := by
  obtain ⟨-, h⟩ := whenLive_next h
  exact ⟨stripFrame s, by simp [complete_eq_next.mp h]⟩

theorem exec_pixel_keeps_transport {i : Instr} {s t : State} (hf : familyOf i = .pixel) (hi : i ≠ .pxShow)
    (h : exec i s = .next t) : KeepsTransport s t := by
  obtain ⟨-, rfl | rfl | ⟨d, rfl, -⟩ | ⟨new, rfl, -⟩ | ⟨-, rfl⟩ | ⟨hshow, -⟩⟩ := exec_pixel_next hf h
  case inr.inr.inr.inr.inr => exact absurd hshow hi
  all_goals exact ⟨rfl, rfl, rfl⟩

theorem exec_transport {i : Instr} {s t : State} (h : exec i s = .next t) :
    (KeepsTransport s t ∧ (transmitsTo i = none ∨ t = s.respond .valueOutOfRange 0#64)) ∨
    ∃ target, transmitsTo i = some target ∧ WritesOnce target s t := by
  cases hf : familyOf i with
  | codec =>
    obtain ⟨m, c, d, rfl, -⟩ := exec_codec_next hf h
    exact .inl ⟨⟨rfl, rfl, rfl⟩, .inl (transmitsTo_of_codec hf)⟩
  | backlight => exact (exec_backlight_transport hf h).imp_right fun hw => ⟨_, hw⟩
  | pixel =>
    by_cases hi : i = .pxShow
    · subst hi
      exact .inr ⟨.strip, rfl, exec_pxShow_transport h⟩
    · exact .inl ⟨exec_pixel_keeps_transport hf hi h, .inl (transmitsTo_of_pixel hf hi)⟩

/-- Settles O16: a rejected transmitter is recognised by its response, ValueOutOfRange. -/
theorem onlyTransmittersWriteFrames : Obligations.OnlyTransmittersWriteFrames := by
  intro i s t h
  rcases exec_transport h with ⟨⟨hframes, hanswers, hdraws⟩, hwhy⟩ | ⟨target, htarget, bytes, hwrite⟩
  · refine .inl ⟨hframes, hanswers, hdraws, hwhy.imp_right fun ht => ?_⟩
    subst ht
    rfl
  · exact .inr ⟨target, bytes, htarget, hwrite⟩

/-! ### The Backlight's registers (R22 to R24) -/

theorem exec_blSetBc_inRange {ch1 ch2 : Word} (h1 : ch1.toNat ≤ 127) (h2 : ch2.toNat ≤ 127) (f : Bool) (s : State) :
    exec (.blSetBc f ch1 ch2) s = finishSet f ((s.setBc (brightnessOf ch1) (brightnessOf ch2)).setDirty true) := by
  have hin : anyAbove 127 [ch1, ch2] = false := anyAbove_eq_false.mpr (by simp [h1, h2])
  simp [exec, execBlSetBc, hin]

theorem exec_blSetGs_inRange {ch1 ch2 : Word} (h1 : ch1.toNat ≤ 65535) (h2 : ch2.toNat ≤ 65535) (f : Bool)
    (s : State) :
    exec (.blSetGs f ch1 ch2) s = finishSet f ((s.setGs (grayscaleOf ch1) (grayscaleOf ch2)).setDirty true) := by
  have hin : anyAbove 65535 [ch1, ch2] = false := anyAbove_eq_false.mpr (by simp [h1, h2])
  simp [exec, execBlSetGs, hin]

/-- DIRTY at the end of a setter: cleared by a transmission that is answered OK (41_backlight.md R142). -/
theorem finishSet_dirty {f : Bool} {s t : State} (h : finishSet f s = .next t) :
    t.dirty = (s.dirty && !(f && decide (s.nextAnswer = .ok))) := by
  rcases finishSet_next h with ⟨rfl, h⟩ | ⟨rfl, rfl⟩
  · simp [transmitBacklight_next h, dirtyAfter_eq]
  · simp

/-- The end of a setter writes no light register. -/
theorem finishSet_keeps_lights {f : Bool} {s t : State} (h : finishSet f s = .next t) :
    (t.bc0 = s.bc0 ∧ t.bc1 = s.bc1) ∧ t.gs0 = s.gs0 ∧ t.gs1 = s.gs1 := by
  rcases finishSet_next h with ⟨-, h⟩ | ⟨-, rfl⟩
  · simp [transmitBacklight_next h]
  · simp

/-- What a command can write of the Backlight's registers: nothing, or BC and DIRTY as a setter in range, or GS and DIRTY
as one, or DIRTY alone as BL_FLUSH. -/
theorem exec_backlight_registers {i : Instr} {s t : State} (h : exec i s = .next t) :
    sameOwned .backlight s t ∨
    (∃ f a b, i = .blSetBc f a b ∧ a.toNat ≤ 127 ∧ b.toNat ≤ 127 ∧ t.gs0 = s.gs0 ∧ t.gs1 = s.gs1) ∨
    (∃ f a b, i = .blSetGs f a b ∧ a.toNat ≤ 65535 ∧ b.toNat ≤ 65535 ∧ t.bc0 = s.bc0 ∧ t.bc1 = s.bc1) ∨
    (i = .blFlush ∧ (t.bc0 = s.bc0 ∧ t.bc1 = s.bc1) ∧ t.gs0 = s.gs0 ∧ t.gs1 = s.gs1) := by
  by_cases hf : familyOf i = .backlight
  · rcases exec_backlight_next hf h with
      ⟨d, rfl, -⟩ | ⟨rfl, -⟩ | ⟨f, a, b, hi, hin, hset⟩ | ⟨f, a, b, hi, hin, hset⟩ | ⟨hi, hflush⟩
    · simp [sameOwned]
    · simp [sameOwned]
    · have hle := anyAbove_eq_false.mp hin
      exact .inr (.inl ⟨f, a, b, hi, hle a (by simp), hle b (by simp), (finishSet_keeps_lights hset).2⟩)
    · have hle := anyAbove_eq_false.mp hin
      exact .inr (.inr (.inl ⟨f, a, b, hi, hle a (by simp), hle b (by simp), (finishSet_keeps_lights hset).1⟩))
    · exact .inr (.inr (.inr ⟨hi, finishSet_keeps_lights (transmitBacklight_eq_finishSet s ▸ hflush)⟩))
  · exact .inl (commandsWriteOnlyTheirOwnPart i s t .backlight h hf)

/-- Settles O20: a setter in range sets DIRTY before its end, which clears it on the answer OK. -/
theorem dirtyFollowsSettersAndOkAnswers : Obligations.DirtyFollowsSettersAndOkAnswers := by
  intro i s t h
  refine ⟨?_, ?_, ?_, fun hne => ?_⟩
  · rintro f ch1 ch2 rfl h1 h2
    rw [exec_blSetBc_inRange h1 h2] at h
    exact (finishSet_dirty h).trans (Bool.true_and _)
  · rintro f ch1 ch2 rfl h1 h2
    rw [exec_blSetGs_inRange h1 h2] at h
    exact (finishSet_dirty h).trans (Bool.true_and _)
  · rintro rfl
    exact finishSet_dirty (f := true) h
  · rcases exec_backlight_registers h with
      ⟨-, -, -, -, hdirty⟩ | ⟨f, a, b, hi, ha, hb, -⟩ | ⟨f, a, b, hi, ha, hb, -⟩ | ⟨hi, -⟩
    · exact absurd hdirty hne
    · exact .inr ⟨f, a, b, .inl ⟨hi, ha, hb⟩⟩
    · exact .inr ⟨f, a, b, .inr ⟨hi, ha, hb⟩⟩
    · exact .inl hi

/-- Settles O22: each setter keeps the other pair of registers, and every other command keeps both. -/
theorem lightRegistersWrittenOnlyBySetters : Obligations.LightRegistersWrittenOnlyBySetters := by
  intro i s t h
  rcases exec_backlight_registers h with
    ⟨hbc0, hbc1, hgs0, hgs1, -⟩ | ⟨f, a, b, hi, -, -, hgs0, hgs1⟩ | ⟨f, a, b, hi, -, -, hbc0, hbc1⟩ |
    ⟨-, ⟨hbc0, hbc1⟩, hgs0, hgs1⟩
  · simp [hbc0, hbc1, hgs0, hgs1]
  · exact ⟨fun _ => ⟨f, a, b, hi⟩, by simp [hgs0, hgs1]⟩
  · exact ⟨by simp [hbc0, hbc1], fun _ => ⟨f, a, b, hi⟩⟩
  · simp [hbc0, hbc1, hgs0, hgs1]

/-! ### LIVE (R26) -/

/-- A command keeps LIVE, or is PX_TEARDOWN on a live buffer. -/
theorem exec_live {i : Instr} {s t : State} (h : exec i s = .next t) :
    t.live = s.live ∨ (i = .pxTeardown ∧ s.live = true ∧ t.live = false) := by
  by_cases hf : familyOf i = .pixel
  · obtain ⟨hlive, rfl | rfl | ⟨d, rfl, -⟩ | ⟨new, rfl, -⟩ | ⟨hi, rfl⟩ | ⟨-, rfl⟩⟩ := exec_pixel_next hf h
    case inr.inr.inr.inr.inl => exact .inr ⟨hi, hlive, rfl⟩
    all_goals exact .inl rfl
  · exact .inl (commandsWriteOnlyTheirOwnPart i s t .pixel h hf).2

/-- A reset is fetched only from the head of the command port. -/
theorem fetch_eq_reset {inputs rest : List HostInput} (h : fetch inputs = .reset rest) : inputs = .reset :: rest := by
  unfold fetch at h
  split at h
  · cases h
  · cases h
    rfl
  · dsimp only at h
    split at h
    case h_3 => split at h <;> cases h
    all_goals cases h

/-- Settles O23: a rise of LIVE is left to the reset, since no command raises it and a waiting step keeps it. -/
theorem liveFallsByTeardownRisesByReset : Obligations.LiveFallsByTeardownRisesByReset := by
  refine ⟨fun i s t h hne => (exec_live h).resolve_left hne, fun s t h hdown hup => ?_⟩
  rcases step_next_cases h with ⟨-, rfl⟩ | ⟨rest, hfetch, -⟩ | ⟨i, rest, -, hexec⟩
  · simp [hdown] at hup
  · exact ⟨rest, fetch_eq_reset hfetch⟩
  · rcases exec_live hexec with hkept | ⟨-, -, hfell⟩
    · simp [hkept, hdown] at hup
    · simp [hfell] at hup

end Sys2Proof.Machine
end

section
/-! The two addressing modes of an encode (10_state.md R29, 40_codec.md R105, R106). -/

namespace Sys2Proof.Machine

/-- The checks of an encode do not depend on what stands behind them: they refuse, or let it through with the width. -/
theorem whenEncodable_cases (code : BitVec 3) (v a : Nat) (s : State) :
    (∃ r, ∀ k, whenEncodable code v a s k = .refused r) ∨
    ∃ w, widthOfCode code = some w ∧ ∀ k, whenEncodable code v a s k = k w := by
  unfold whenEncodable
  split
  · exact .inl ⟨_, fun _ => rfl⟩
  · rename_i w hw
    split
    · exact .inl ⟨_, fun _ => rfl⟩
    · split
      · exact .inl ⟨_, fun _ => rfl⟩
      · exact .inr ⟨w, hw, fun _ => rfl⟩

/-- Settles O35: both modes make the same checks at the same address, and differ in what stands behind them. -/
theorem encodeModesAgree : Obligations.EncodeModesAgree := by
  intro code a0 a1 a2 s hcur
  simp only [exec, execCdcEnc, execCdcEncAt, hcur]
  rcases whenEncodable_cases code (codecValue a0 a1).toNat s.cur s with ⟨r, hr⟩ | ⟨w, hw, hk⟩
  · simp [hr]
  · simp only [hk]
    refine ⟨fun t ht => ⟨w, hw, ?_⟩, fun r hr => absurd hr complete_ne_refused⟩
    rw [complete_eq_next.mp ht]
    rfl

end Sys2Proof.Machine
end

section
/-! Byte order and retransmission (20_memory.md R51 to R53, R61). BUILD_ORDER is read by the codec's conversions only: of
the other two parts, each check, each ending and each frame commutes with building the instance in another order. -/

namespace Sys2Proof.Machine

/-! ### BUILD_ORDER outside the codec -/

section
variable (s : State) (o : ByteOrder)

theorem orderOutcome_complete (st : Status) (d : DataWord) :
    orderOutcome o (complete st d s) = complete st d (s.withOrder o) := rfl

theorem orderOutcome_whenLive (k : Result) :
    orderOutcome o (whenLive s k) = whenLive (s.withOrder o) (orderOutcome o k) :=
  apply_ite (orderOutcome o) ..

theorem orderOutcome_whenIndex (idx : Word) (k : Result) :
    orderOutcome o (whenIndex idx s k) = whenIndex idx (s.withOrder o) (orderOutcome o k) :=
  apply_ite (orderOutcome o) ..

theorem orderOutcome_whenChannels (vs : List Word) (k : Result) :
    orderOutcome o (whenChannels vs s k) = whenChannels vs (s.withOrder o) (orderOutcome o k) :=
  apply_ite (orderOutcome o) ..

/-- The Backlight frame is big-endian in either instance (R52, 40_codec.md R111). -/
theorem buildFrame_withOrder : buildFrame (s.withOrder o) = buildFrame s := rfl

/-- The strip frame has no multi-byte field (R53). -/
theorem stripFrame_withOrder : stripFrame (s.withOrder o) = stripFrame s := rfl

theorem transmitBacklight_withOrder :
    transmitBacklight (s.withOrder o) = orderOutcome o (transmitBacklight s) := by
  simp only [transmitBacklight, orderOutcome_complete, buildFrame_withOrder]
  rfl

theorem finishSet_withOrder (f : Bool) : finishSet f (s.withOrder o) = orderOutcome o (finishSet f s) := by
  cases f with
  | false => rfl
  | true => exact transmitBacklight_withOrder s o

theorem execPxShow_withOrder : execPxShow (s.withOrder o) = orderOutcome o (execPxShow s) := by
  simp only [execPxShow, orderOutcome_whenLive, orderOutcome_complete, stripFrame_withOrder]
  rfl

end

theorem exec_backlight_withOrder {i : Instr} (hf : familyOf i = .backlight) (s : State) (o : ByteOrder) :
    exec i (s.withOrder o) = orderOutcome o (exec i s) := by
  cases i <;> simp only [familyOf, reduceCtorEq] at hf
  case blSetBc f ch1 ch2 =>
    simp only [exec, execBlSetBc]
    split
    · rfl
    · exact finishSet_withOrder ((s.setBc _ _).setDirty true) o f
  case blSetGs f ch1 ch2 =>
    simp only [exec, execBlSetGs]
    split
    · rfl
    · exact finishSet_withOrder ((s.setGs _ _).setDirty true) o f
  case blFlush => exact transmitBacklight_withOrder s o
  case blGetBc => rfl
  case blGetGs => rfl
  case blGetDirty => rfl

/-- Past its checks, which read LIVE and N, a command of the Pixel Buffer works on single-byte channels (R53). -/
theorem exec_pixel_withOrder {i : Instr} (hf : familyOf i = .pixel) (s : State) (o : ByteOrder) :
    exec i (s.withOrder o) = orderOutcome o (exec i s) := by
  cases i <;> simp only [familyOf, reduceCtorEq] at hf
  case pxShow => exact execPxShow_withOrder s o
  all_goals
    simp only [exec, execPxSet, execPxSetR, execPxSetG, execPxSetB, execPxSetBrt, execPxGetR, execPxGetG, execPxGetB,
      execPxGetBrt, execPxFill, execPxPushFront, execPxPushBack, execPxRotL, execPxRotR, execPxClear, execPxTeardown,
      setChannel, getChannel, orderOutcome_whenLive, orderOutcome_whenIndex, orderOutcome_whenChannels,
      orderOutcome_complete]
    rfl

/-- Settles O14: the commands outside the codec are those of the Backlight Encoder and of the Pixel Buffer. -/
theorem buildOrderGovernsCodecOnly : Obligations.BuildOrderGovernsCodecOnly := by
  intro i s o hne
  cases hf : familyOf i with
  | codec => exact absurd hf hne
  | backlight => exact exec_backlight_withOrder hf s o
  | pixel => exact exec_pixel_withOrder hf s o

/-! ### Issuing a transmission again -/

/-- BL_FLUSH sends the frame of the state it finds, and leaves what that frame is built from. -/
theorem exec_blFlush_sends {s t : State} (h : exec .blFlush s = .next t) :
    t.frames = s.frames ++ [{ target := .backlight, bytes := buildFrame s }] ∧ buildFrame t = buildFrame s := by
  rw [transmitBacklight_next h]
  exact ⟨rfl, rfl⟩

/-- PX_SHOW sends the strip frame of the state it finds, and leaves the pixels. -/
theorem exec_pxShow_sends {s t : State} (h : exec .pxShow s = .next t) :
    t.frames = s.frames ++ [{ target := .strip, bytes := stripFrame s }] ∧ stripFrame t = stripFrame s := by
  obtain ⟨-, hsent⟩ := whenLive_next h
  rw [complete_eq_next.mp hsent]
  exact ⟨rfl, rfl⟩

/-- Settles O44: the second frame is built from the state the first left, which builds the same bytes. -/
theorem retransmissionIsIdempotent : Obligations.RetransmissionIsIdempotent := by
  rintro i s t u (rfl | rfl) ht hu
  · obtain ⟨hfirst, hbytes⟩ := exec_blFlush_sends ht
    obtain ⟨hsecond, -⟩ := exec_blFlush_sends hu
    exact ⟨_, hfirst, by simp [hsecond, hfirst, hbytes]⟩
  · obtain ⟨hfirst, hbytes⟩ := exec_pxShow_sends ht
    obtain ⟨hsecond, -⟩ := exec_pxShow_sends hu
    exact ⟨_, hfirst, by simp [hsecond, hfirst, hbytes]⟩

end Sys2Proof.Machine
end

section
/-! The encoding of commands (30_encoding.md R70 to R79): the checks of an opcode word, that decoder and encoder undo each
other, and the words a step takes from the command port. -/

namespace Sys2Proof

/-! ### Opcode bytes and the MOD field (R74 to R78) -/

/-- Column OP of R78. -/
def Opcode.byte : Opcode → BitVec 8
  | .cdcEnc => 0x01#8
  | .cdcEncAt => 0x02#8
  | .cdcDec => 0x03#8
  | .cdcDecAt => 0x04#8
  | .cdcRewind => 0x05#8
  | .cdcGetCursor => 0x06#8
  | .blSetBc => 0x10#8
  | .blSetGs => 0x11#8
  | .blFlush => 0x12#8
  | .blGetBc => 0x13#8
  | .blGetGs => 0x14#8
  | .blGetDirty => 0x15#8
  | .pxSet => 0x20#8
  | .pxSetR => 0x21#8
  | .pxSetG => 0x22#8
  | .pxSetB => 0x23#8
  | .pxSetBrt => 0x24#8
  | .pxGetR => 0x25#8
  | .pxGetG => 0x26#8
  | .pxGetB => 0x27#8
  | .pxGetBrt => 0x28#8
  | .pxFill => 0x29#8
  | .pxPushFront => 0x2A#8
  | .pxPushBack => 0x2B#8
  | .pxRotL => 0x2C#8
  | .pxRotR => 0x2D#8
  | .pxClear => 0x2E#8
  | .pxShow => 0x2F#8
  | .pxTeardown => 0x30#8

/-- No two bytes name the same opcode. -/
theorem eq_byte_of_opcodeOfByte {b : BitVec 8} {o : Opcode} (h : opcodeOfByte b = some o) : b = o.byte := by
  unfold opcodeOfByte at h
  split at h
  case h_30 => cases h
  all_goals
    rename_i hb
    cases h
    exact BitVec.eq_of_toNat_eq hb

theorem eq_zero_of_unused_none {m : BitVec 8} (h : m &&& ModUse.none.unusedMask = 0#8) : m = 0#8 := by
  revert m; decide

theorem modOfBit_lowBit {m : BitVec 8} (h : m &&& ModUse.flush.unusedMask = 0#8) : modOfBit (lowBit m) = m := by
  revert m; decide

theorem modOfWidth_widthField {m : BitVec 8} (h : m &&& ModUse.width.unusedMask = 0#8) :
    modOfWidth (widthField m) = m := by
  revert m; decide

/-! ### The checks of an opcode word (60_exceptions.md R226) -/

/-- An opcode word that passes its own checks and names opcode `o`. -/
structure AcceptedAs (w : Word) (o : Opcode) : Prop where
  rsv : rsvField w = 0#16
  op : opcodeOfByte (opField w) = some o
  mod : modField w &&& o.modUse.unusedMask = 0#8
  width : o.modUse = .width → widthOfCode (widthField (modField w)) ≠ none

/-- The decoder's answers to an opcode word that fails one of its checks. -/
def DecodeError.isReserved : DecodeError → Bool
  | .empty | .incomplete => false
  | .reservedRsv | .reservedOpcode | .reservedMod | .reservedWidth => true

/-- Behind an accepted opcode word the decoder only reads operand words. -/
theorem AcceptedAs.decode_cons {w : Word} {o : Opcode} (h : AcceptedAs w o) (ws : List Word) :
    decode (w :: ws) = o.readOperands (modField w) ws := by
  have hwidth : ¬ (o.modUse = .width ∧ widthOfCode (widthField (modField w)) = none) :=
    fun hnone => h.width hnone.1 hnone.2
  simp only [decode, h.rsv, h.op, h.mod, if_neg hwidth, ne_eq, not_true_eq_false, if_false]

/-- Any other opcode word is reserved, whatever words follow it. -/
theorem acceptedAs_or_decode_reserved (w : Word) :
    (∃ o, AcceptedAs w o) ∨ ∃ e, e.isReserved = true ∧ ∀ ws, decode (w :: ws) = .error e := by
  by_cases hrsv : rsvField w = 0#16
  swap
  · exact .inr ⟨.reservedRsv, rfl, fun ws => by simp [decode, hrsv]⟩
  cases hop : opcodeOfByte (opField w) with
  | none => exact .inr ⟨.reservedOpcode, rfl, fun ws => by simp [decode, hrsv, hop]⟩
  | some o =>
    by_cases hmod : modField w &&& o.modUse.unusedMask = 0#8
    swap
    · exact .inr ⟨.reservedMod, rfl, fun ws => by simp [decode, hrsv, hop, hmod]⟩
    by_cases hwidth : o.modUse = .width ∧ widthOfCode (widthField (modField w)) = none
    · refine .inr ⟨.reservedWidth, rfl, fun ws => ?_⟩
      simp only [decode, hrsv, hop, hmod, if_pos hwidth, ne_eq, not_true_eq_false, if_false]
    · exact .inl ⟨o, hrsv, hop, hmod, fun huse hnone => hwidth ⟨huse, hnone⟩⟩

/-! ### Encoding, then decoding -/

/-- Every command's words have the shape of its row of R78. -/
theorem encodeShape (i : Instr) : Laws.EncodeShape.Statement i := by
  open Laws.EncodeShape in
  cases i with
  | cdcEnc => exact cdcEnc ..
  | cdcEncAt => exact cdcEncAt ..
  | cdcDec => exact cdcDec ..
  | cdcDecAt => exact cdcDecAt ..
  | cdcRewind => exact cdcRewind
  | cdcGetCursor => exact cdcGetCursor
  | blSetBc => exact blSetBc ..
  | blSetGs => exact blSetGs ..
  | blFlush => exact blFlush
  | blGetBc => exact blGetBc ..
  | blGetGs => exact blGetGs ..
  | blGetDirty => exact blGetDirty
  | pxSet => exact pxSet ..
  | pxSetR => exact pxSetR ..
  | pxSetG => exact pxSetG ..
  | pxSetB => exact pxSetB ..
  | pxSetBrt => exact pxSetBrt ..
  | pxGetR => exact pxGetR ..
  | pxGetG => exact pxGetG ..
  | pxGetB => exact pxGetB ..
  | pxGetBrt => exact pxGetBrt ..
  | pxFill => exact pxFill ..
  | pxPushFront => exact pxPushFront ..
  | pxPushBack => exact pxPushBack ..
  | pxRotL => exact pxRotL
  | pxRotR => exact pxRotR
  | pxClear => exact pxClear
  | pxShow => exact pxShow
  | pxTeardown => exact pxTeardown

/-- A command is well-formed when the width code in its opcode word, if it has one, is assigned. -/
theorem wellFormed_iff_of_encode {i : Instr} {w : Word} {ws : List Word} (henc : encode i = w :: ws) :
    i.wellFormed = true ↔ (i.opcode.modUse = .width → widthOfCode (widthField (modField w)) ≠ none) := by
  cases i
  case cdcEnc | cdcEncAt | cdcDec | cdcDecAt =>
    cases henc
    simp [Instr.wellFormed, Instr.opcode, Opcode.modUse, widthCodeAssigned_iff]
  all_goals simp [Instr.wellFormed, Instr.opcode, Opcode.modUse]

/-- The operand reader of a command's opcode takes the command's own operand words and leaves what follows. -/
theorem readOperands_encode {i : Instr} {w : Word} {ws : List Word} (henc : encode i = w :: ws) (rest : List Word) :
    i.opcode.readOperands (modField w) (ws ++ rest) = .ok (i, rest) := by
  cases i
  case cdcEnc | cdcEncAt | cdcDec | cdcDecAt | blSetBc | blSetGs | blGetBc | blGetGs =>
    cases henc
    simp [Instr.opcode, Opcode.readOperands, readOperands0, readOperands1, readOperands2, readOperands3]
  all_goals
    cases henc
    rfl

/-- Settles O3: a well-formed command's opcode word is accepted as its opcode, whose reader gives the command back. -/
theorem decodeInvertsEncode : Obligations.DecodeInvertsEncode := by
  intro i rest hi
  obtain ⟨w, ws, henc, -, hrsv, hop, hmod⟩ := encodeShape i
  have hacc : AcceptedAs w i.opcode := ⟨hrsv, hop, hmod, (wellFormed_iff_of_encode henc).mp hi⟩
  rw [henc, List.cons_append, hacc.decode_cons]
  exact readOperands_encode henc rest

/-! ### Decoding, then encoding -/

theorem readOperands0_ok {j i : Instr} {ws rest : List Word} (h : readOperands0 j ws = .ok (i, rest)) :
    ws = rest ∧ i = j := by
  cases h
  exact ⟨rfl, rfl⟩

/-- The words read as a command are those of its encoding: MOD has no bit but the field's that the opcode uses. -/
theorem encode_of_readOperands {o : Opcode} {m : BitVec 8} {ws rest : List Word} {i : Instr}
    (h : o.readOperands m ws = .ok (i, rest)) (hmod : m &&& o.modUse.unusedMask = 0#8) :
    opcodeWord o.byte m :: ws = encode i ++ rest := by
  cases o
  case cdcEnc =>
    obtain ⟨a0, a1, rfl, rfl⟩ := readOperands2_ok h
    simp [encode, Opcode.byte, modOfWidth_widthField hmod]
  case cdcEncAt =>
    obtain ⟨a0, a1, a2, rfl, rfl⟩ := readOperands3_ok h
    simp [encode, Opcode.byte, modOfWidth_widthField hmod]
  case cdcDec =>
    obtain ⟨rfl, rfl⟩ := readOperands0_ok h
    simp [encode, Opcode.byte, modOfWidth_widthField hmod]
  case cdcDecAt =>
    obtain ⟨a0, rfl, rfl⟩ := readOperands1_ok h
    simp [encode, Opcode.byte, modOfWidth_widthField hmod]
  case blSetBc | blSetGs =>
    obtain ⟨a0, a1, rfl, rfl⟩ := readOperands2_ok h
    simp [encode, Opcode.byte, modOfBit_lowBit hmod]
  case blGetBc | blGetGs =>
    obtain ⟨rfl, rfl⟩ := readOperands0_ok h
    simp [encode, Opcode.byte, modOfBit_lowBit hmod]
  all_goals obtain rfl := eq_zero_of_unused_none hmod
  case pxGetR | pxGetG | pxGetB | pxGetBrt =>
    obtain ⟨a0, rfl, rfl⟩ := readOperands1_ok h
    rfl
  case pxSetR | pxSetG | pxSetB | pxSetBrt =>
    obtain ⟨a0, a1, rfl, rfl⟩ := readOperands2_ok h
    rfl
  case pxFill | pxPushFront | pxPushBack =>
    obtain ⟨a0, a1, a2, a3, rfl, rfl⟩ := readOperands4_ok h
    rfl
  case pxSet =>
    obtain ⟨a0, a1, a2, a3, a4, rfl, rfl⟩ := readOperands5_ok h
    rfl
  all_goals
    obtain ⟨rfl, rfl⟩ := readOperands0_ok h
    rfl

/-- An accepted opcode word is a command's only with an assigned width code, if with any. -/
theorem AcceptedAs.wellFormed {w : Word} {o : Opcode} {ws rest : List Word} {i : Instr} (h : AcceptedAs w o)
    (hwords : w :: ws = encode i ++ rest) : i.wellFormed = true := by
  obtain ⟨v, vs, henc, -, -, hop, -⟩ := encodeShape i
  rw [henc, List.cons_append] at hwords
  obtain ⟨rfl, -⟩ := List.cons.inj hwords
  obtain rfl : o = i.opcode := Option.some.inj (h.op.symm.trans hop)
  exact (wellFormed_iff_of_encode henc).mpr h.width

/-- Settles O4: an opcode word that decodes is accepted, and is the one word with its three fields. -/
theorem encodeInvertsDecode : Obligations.EncodeInvertsDecode := by
  intro ws rest i h
  cases ws with
  | nil => cases h
  | cons w ws =>
    rcases acceptedAs_or_decode_reserved w with ⟨o, hacc⟩ | ⟨e, -, herr⟩
    · rw [hacc.decode_cons] at h
      have hword : w = opcodeWord o.byte (modField w) :=
        eq_byte_of_opcodeOfByte hacc.op ▸ opcodeWord_of_fields w hacc.rsv
      have hwords : w :: ws = encode i ++ rest := by
        rw [hword]
        exact encode_of_readOperands h hacc.mod
      exact ⟨hacc.wellFormed hwords, hwords⟩
    · rw [herr] at h
      cases h

/-! ### Reserved opcode words (R73, R74, R76, R79) -/

/-- The numbers a MOD field may be, by the use the opcode makes of it. -/
def ModUse.Allows : ModUse → Nat → Prop
  | .none, m => m = 0
  | .flush, m => m / 2 = 0
  | .channel, m => m / 2 = 0
  | .width, m => m / 8 = 0 ∧ m % 8 ≤ 4

theorem allows_of_checks {u : ModUse} {m : BitVec 8} (hmod : m &&& u.unusedMask = 0#8)
    (hwidth : u = .width → widthOfCode (widthField m) ≠ none) : u.Allows m.toNat := by
  cases u
  case none => rw [eq_zero_of_unused_none hmod]; rfl
  case flush | channel =>
    rw [← modOfBit_lowBit hmod]
    show (modOfBit (lowBit m)).toNat / 2 = 0
    cases lowBit m <;> rfl
  case width =>
    rw [← modOfWidth_widthField hmod]
    have hw := hwidth rfl
    show (modOfWidth (widthField m)).toNat / 8 = 0 ∧ (modOfWidth (widthField m)).toNat % 8 ≤ 4
    revert hw
    generalize widthField m = code
    revert code
    decide

/-- The three fields of an accepted opcode word, as numbers. -/
theorem AcceptedAs.toNat_fields {w : Word} {o : Opcode} (h : AcceptedAs w o) :
    w.toNat / 2 ^ 16 = 0 ∧ w.toNat % 2 ^ 8 = o.byte.toNat ∧ o.modUse.Allows (w.toNat / 2 ^ 8 % 2 ^ 8) := by
  refine ⟨?_, ?_, ?_⟩
  · exact (rsvField_toNat w).symm.trans (congrArg BitVec.toNat h.rsv)
  · exact (opField_toNat w).symm.trans (congrArg BitVec.toNat (eq_byte_of_opcodeOfByte h.op))
  · exact modField_toNat w ▸ allows_of_checks h.mod h.width

end Sys2Proof

namespace Sys2Proof.Machine

/-- A reserved opcode word is found reserved whatever stands behind it on the port (log 11). -/
theorem fetch_of_decode_reserved {w : Word} {e : DecodeError} {rest : List HostInput} (he : e.isReserved = true)
    (hdec : decode (w :: leadingWords rest) = .error e) : fetch (.word w :: rest) = .reserved := by
  simp only [fetch, hdec]
  cases e
  case empty | incomplete => cases he
  all_goals rfl

/-- Settles O5: an accepted opcode word has none of the reserved forms, and any other is refused. -/
theorem reservedEncodingsRefused : Obligations.ReservedEncodingsRefused := by
  rintro s w rest hin op mod rsv rfl rfl rfl hres
  rcases acceptedAs_or_decode_reserved w with ⟨o, hacc⟩ | ⟨e, he, hdec⟩
  · exfalso
    obtain ⟨hrsv, hop, hmod⟩ := hacc.toNat_fields
    cases o <;> simp only [Opcode.byte, Opcode.modUse, ModUse.Allows, BitVec.reduceToNat] at hop hmod <;> omega
  · simp only [step, hin, fetch_of_decode_reserved he (hdec _)]

/-! ### The words of one command on the command port (R70, 10_state.md R32) -/

/-- A whole well-formed command is taken, and nothing behind it. -/
theorem fetch_encode {i : Instr} (hi : i.wellFormed = true) (rest : List HostInput) :
    fetch ((encode i).map HostInput.word ++ rest) = .command i rest := by
  obtain ⟨w, ws, henc, -⟩ := encodeShape i
  have hdec : decode (w :: leadingWords (ws.map HostInput.word ++ rest)) = .ok (i, leadingWords rest) := by
    rw [leadingWords_map_word, ← List.cons_append, ← henc]
    exact decodeInvertsEncode i _ hi
  rw [henc]
  have hlen : (w :: leadingWords (ws.map HostInput.word ++ rest)).length - (leadingWords rest).length =
      ((w :: ws).map HostInput.word).length := by
    simp only [leadingWords_map_word, List.length_cons, List.length_append, List.length_map]
    omega
  simp only [List.map_cons, List.cons_append, fetch, hdec, hlen]
  exact congrArg (Fetched.command i) (List.drop_left (l₁ := (w :: ws).map HostInput.word))

/-- Settles O2: the words that decode with nothing left over are one command's. -/
theorem stepRunsDecodedCommand : Obligations.StepRunsDecodedCommand := by
  intro ws i rest s hdec hin
  obtain ⟨hi, rfl⟩ := encodeInvertsDecode ws [] i hdec
  rw [List.append_nil] at hin
  simp only [step, hin, fetch_encode hi]
  rfl

/-- Settles O1, word by word. -/
theorem specExampleWordsDecode : Obligations.SpecExampleWordsDecode :=
  ⟨rfl, rfl, rfl, rfl, rfl, rfl, rfl, rfl, rfl, rfl, rfl, rfl, rfl, rfl, rfl, rfl, rfl, rfl, rfl⟩

end Sys2Proof.Machine
end

section
/-! Responses (30_encoding.md R80, R81), and the equality of PX_CLEAR with a fill (R83). -/

namespace Sys2Proof.Machine

/-- The status codes are 0x00 to 0x07 (60_exceptions.md R220). -/
theorem Status.code_le (st : Status) : st.code.toNat ≤ 0x07 := by
  cases st <;> decide

/-- A Backlight setter or flush answers without data. -/
theorem finishSet_responses {f : Bool} {s t : State} (h : finishSet f s = .next t) :
    ∃ st : Status, t.responses = s.responses ++ [{ status := st.code, data := 0#64 }] := by
  rcases finishSet_next h with ⟨-, h⟩ | ⟨-, rfl⟩
  · exact ⟨statusOf s.nextAnswer, by simp [transmitBacklight_next h]⟩
  · exact ⟨.ok, rfl⟩

/-- One response, and data in it only as the answer OK of a command that reads a value. -/
def AnswersOnce (i : Instr) (s t : State) : Prop :=
  ∃ (st : Status) (d : DataWord), t.responses = s.responses ++ [{ status := st.code, data := d }] ∧
    (d ≠ 0#64 → st = .ok ∧ readsValue i = true)

theorem answersOnce_of_no_data {i : Instr} {s t : State}
    (h : ∃ st : Status, t.responses = s.responses ++ [{ status := st.code, data := 0#64 }]) : AnswersOnce i s t :=
  h.imp fun _ hresp => ⟨0#64, hresp, fun hd => absurd rfl hd⟩

theorem exec_backlight_answersOnce {i : Instr} {s t : State} (hf : familyOf i = .backlight) (h : exec i s = .next t) :
    AnswersOnce i s t := by
  rcases exec_backlight_next hf h with
    ⟨d, rfl, hread⟩ | ⟨rfl, -⟩ | ⟨f, a, b, -, -, hset⟩ | ⟨f, a, b, -, -, hset⟩ | ⟨-, hflush⟩
  · exact ⟨.ok, d, rfl, fun _ => ⟨rfl, hread⟩⟩
  · exact answersOnce_of_no_data ⟨_, rfl⟩
  · exact answersOnce_of_no_data (by simpa using finishSet_responses hset)
  · exact answersOnce_of_no_data (by simpa using finishSet_responses hset)
  · exact answersOnce_of_no_data (finishSet_responses (transmitBacklight_eq_finishSet s ▸ hflush))

theorem exec_pixel_answersOnce {i : Instr} {s t : State} (hf : familyOf i = .pixel) (h : exec i s = .next t) :
    AnswersOnce i s t := by
  obtain ⟨-, rfl | rfl | ⟨d, rfl, hread⟩ | ⟨new, rfl, -⟩ | ⟨-, rfl⟩ | ⟨-, rfl⟩⟩ := exec_pixel_next hf h
  case inr.inr.inl => exact ⟨.ok, d, rfl, fun _ => ⟨rfl, hread⟩⟩
  all_goals exact answersOnce_of_no_data ⟨_, rfl⟩

theorem exec_answersOnce {i : Instr} {s t : State} (h : exec i s = .next t) : AnswersOnce i s t := by
  cases hf : familyOf i with
  | codec =>
    obtain ⟨m, c, d, rfl, hread, -⟩ := exec_codec_next hf h
    exact ⟨.ok, d, rfl, fun hd => ⟨rfl, hread hd⟩⟩
  | backlight => exact exec_backlight_answersOnce hf h
  | pixel => exact exec_pixel_answersOnce hf h

/-- Settles O15: each part's commands answer once, with one of the eight status codes. -/
theorem everyCompletedCommandAnswersOnce : Obligations.EveryCompletedCommandAnswersOnce := by
  intro i s t h
  obtain ⟨st, d, hresp, hdata⟩ := exec_answersOnce h
  refine ⟨_, hresp, st.code_le, fun hd => ?_⟩
  obtain ⟨rfl, hread⟩ := hdata hd
  exact ⟨rfl, hread⟩

/-- Settles O52: four zero operands pass the value check, and their pixel is Z. -/
theorem clearEqualsFillZero : Obligations.ClearEqualsFillZero := by
  intro s
  have hin : anyAbove 255 [0#32, 0#32, 0#32, 0#32] = false := by decide
  have hzero : pixelOf 0#32 0#32 0#32 0#32 = Pixel.zero := by decide
  simp [exec, execPxClear, execPxFill, whenChannels, hin, hzero]

end Sys2Proof.Machine
end

section
/-! The codec's conversion functions (40_codec.md R100 to R102). LITTLE reads a byte list as the base-256 digits of a
number, least significant first, and BIG as those digits reversed. So facts about LITTLE are the library's facts about
`Nat.ofDigits`, and each fact about BIG is LITTLE's, of the reversed list. -/

namespace Sys2Proof.Machine

/-! ### ToBytes (R100) -/

theorem byteOf_getLsbD {k : Nat} (hk : k < 8) (v i : Nat) : (byteOf v i).getLsbD k = v.testBit (8 * i + k) := by
  rw [byteOf, BitVec.getLsbD_ofNat, Nat.testBit_div_two_pow]
  simp [hk, Nat.add_comm]

theorem byteOf_toNat (v i : Nat) : (byteOf v i).toNat = v / 256 ^ i % 256 := by
  simp [byteOf, Nat.pow_mul]

theorem toBytes_getElem? {j : Nat} {w : Width} (hj : j < widthBytes w) (o : ByteOrder) (v : Nat) :
    (toBytes o w v)[j]? = some (byteOf v (bytePlace o (widthBytes w) j)) := by
  simp [toBytes, hj]

theorem toBytes_little_eq_reverse_big (w : Width) (v : Nat) : toBytes .little w v = (toBytes .big w v).reverse := by
  apply List.ext_getElem (by simp)
  intro j hj _
  have hplace : widthBytes w - 1 - (widthBytes w - 1 - j) = j := by
    rw [toBytes_length] at hj
    omega
  simp [toBytes, bytePlace, hplace]

/-! ### FromBytes (R101) -/

theorem two_pow_widthBits (w : Width) : 2 ^ widthBits w = 256 ^ widthBytes w := by
  cases w <;> rfl

theorem fromBytes_little_eq_ofDigits {w : Width} {bytes : List Byte} (hlen : bytes.length = widthBytes w) :
    fromBytes .little w bytes = Nat.ofDigits 256 (bytes.map BitVec.toNat) := by
  rw [Nat.ofDigits_eq_sum_mapIdx, fromBytes, ← hlen]
  congr 1
  apply List.ext_getElem (by simp)
  intro j hj _
  have hj : j < bytes.length := by simpa using hj
  simp [bytePlace, Nat.pow_mul, hj]

theorem fromBytes_big_eq_little_reverse {w : Width} {bytes : List Byte} (hlen : bytes.length = widthBytes w) :
    fromBytes .big w bytes = fromBytes .little w bytes.reverse := by
  rw [fromBytes, ← List.sum_reverse, fromBytes, ← hlen]
  congr 1
  apply List.ext_getElem (by simp)
  intro j hj _
  have hj : j < bytes.length := by simpa using hj
  have hplace : bytes.length - 1 - (bytes.length - 1 - j) = j := by omega
  have hfar : bytes.length - 1 - j < bytes.length := by omega
  simp [bytePlace, hj, hplace, hfar]

theorem fromBytes_little_lt {w : Width} {bytes : List Byte} (hlen : bytes.length = widthBytes w) :
    fromBytes .little w bytes < 2 ^ widthBits w := by
  have hdigit : ∀ d ∈ bytes.map BitVec.toNat, d < 256 := by
    simpa using fun b _ => b.isLt
  have hlt := Nat.ofDigits_lt_base_pow_length (by decide) hdigit
  rwa [List.length_map, hlen, ← two_pow_widthBits, ← fromBytes_little_eq_ofDigits hlen] at hlt

theorem fromBytes_lt (o : ByteOrder) {w : Width} {bytes : List Byte} (hlen : bytes.length = widthBytes w) :
    fromBytes o w bytes < 2 ^ widthBits w := by
  cases o with
  | little => exact fromBytes_little_lt hlen
  | big => exact fromBytes_big_eq_little_reverse hlen ▸ fromBytes_little_lt (by simpa using hlen)

/-- Settles O25: the bits are those of `byteOf`; Horner's forms are those of a number given by its base-256 digits. -/
theorem conversionsPlaceEveryByte : Obligations.ConversionsPlaceEveryByte := by
  refine ⟨fun w v j k hj hk => ⟨?_, ?_⟩, toBytes_length, fun w bytes hlen => ⟨?_, ?_, fun o => fromBytes_lt o hlen⟩⟩
  · exact ⟨_, toBytes_getElem? hj .little v, byteOf_getLsbD hk v _⟩
  · exact ⟨_, toBytes_getElem? hj .big v, byteOf_getLsbD hk v _⟩
  · rw [fromBytes_big_eq_little_reverse hlen, fromBytes_little_eq_ofDigits (by simpa using hlen),
      Nat.ofDigits_eq_foldr, List.foldr_map, List.foldr_reverse]
    simp [Nat.add_comm, Nat.mul_comm]
  · rw [fromBytes_little_eq_ofDigits hlen, Nat.ofDigits_eq_foldr, List.foldr_map]
    rfl

/-! ### The two undo each other (R102) -/

/-- The n lowest base-256 digits of a number make up the number modulo 256^n. -/
theorem ofDigits_lowest_digits (v n : Nat) :
    Nat.ofDigits 256 ((List.range n).map fun i => v / 256 ^ i % 256) = v % 256 ^ n := by
  induction n with
  | zero => simp [Nat.mod_one]
  | succ n ih => simp [List.range_succ, Nat.ofDigits_append, ih, Nat.mod_pow_succ]

theorem fromBytes_toBytes_little {w : Width} {v : Nat} (hv : v < 2 ^ widthBits w) :
    fromBytes .little w (toBytes .little w v) = v := by
  have hdigits : (toBytes .little w v).map BitVec.toNat =
      (List.range (widthBytes w)).map fun i => v / 256 ^ i % 256 := by
    simp [toBytes, bytePlace, Function.comp_def, byteOf_toNat]
  rw [fromBytes_little_eq_ofDigits (by simp), hdigits, ofDigits_lowest_digits, ← two_pow_widthBits,
    Nat.mod_eq_of_lt hv]

theorem fromBytes_toBytes (o : ByteOrder) {w : Width} {v : Nat} (hv : v < 2 ^ widthBits w) :
    fromBytes o w (toBytes o w v) = v := by
  cases o with
  | little => exact fromBytes_toBytes_little hv
  | big =>
    rw [fromBytes_big_eq_little_reverse (by simp), ← toBytes_little_eq_reverse_big]
    exact fromBytes_toBytes_little hv

/-- Byte lists of one length are told apart by their value, as digit lists are. -/
theorem eq_of_fromBytes_little_eq {w : Width} {b c : List Byte} (hb : b.length = widthBytes w)
    (hc : c.length = widthBytes w) (h : fromBytes .little w b = fromBytes .little w c) : b = c := by
  rw [fromBytes_little_eq_ofDigits hb, fromBytes_little_eq_ofDigits hc] at h
  have hdigits : b.map BitVec.toNat = c.map BitVec.toNat :=
    Nat.ofDigits_inj_of_len_eq (by decide) (by simp [hb, hc]) (by simpa using fun x _ => x.isLt)
      (by simpa using fun x _ => x.isLt) h
  exact List.map_injective_iff.mpr (fun _ _ => BitVec.eq_of_toNat_eq) hdigits

theorem eq_of_fromBytes_eq {o : ByteOrder} {w : Width} {b c : List Byte} (hb : b.length = widthBytes w)
    (hc : c.length = widthBytes w) (h : fromBytes o w b = fromBytes o w c) : b = c := by
  cases o with
  | little => exact eq_of_fromBytes_little_eq hb hc h
  | big =>
    rw [fromBytes_big_eq_little_reverse hb, fromBytes_big_eq_little_reverse hc] at h
    exact List.reverse_injective (eq_of_fromBytes_little_eq (by simpa using hb) (by simpa using hc) h)

/-- The bytes of a list's value have that value too, so they are the list. -/
theorem toBytes_fromBytes (o : ByteOrder) {w : Width} {bytes : List Byte} (hlen : bytes.length = widthBytes w) :
    toBytes o w (fromBytes o w bytes) = bytes :=
  eq_of_fromBytes_eq (toBytes_length ..) hlen (fromBytes_toBytes o (fromBytes_lt o hlen))

/-- Settles O24. -/
theorem conversionsAreInverse : Obligations.ConversionsAreInverse :=
  ⟨fun o _ _ hv => fromBytes_toBytes o hv, fun o _ _ hlen => toBytes_fromBytes o hlen,
    fun w v _ => toBytes_little_eq_reverse_big w v⟩

end Sys2Proof.Machine
end

section
/-! The codec's commands (40_codec.md R103 to R110). Encodes share one run of checks and decodes another: which inputs
pass, and how the others stop, is said once of the checks, at whatever address the command works. -/

namespace Sys2Proof.Machine

/-! ### The four commands that pass a value: their checks, and the effect behind the checks -/

section
variable (code : BitVec 3) (a0 a1 a2 : Word) (s : State)

theorem exec_cdcEnc : exec (.cdcEnc code a0 a1) s = whenEncodable code (codecValue a0 a1).toNat s.cur s fun w =>
    complete .ok 0#64 ((s.storeValue w s.cur (codecValue a0 a1).toNat).setCur (s.cur + widthBytes w)) := rfl

theorem exec_cdcEncAt : exec (.cdcEncAt code a0 a1 a2) s =
    whenEncodable code (codecValue a0 a1).toNat a2.toNat s fun w =>
      complete .ok 0#64 (s.storeValue w a2.toNat (codecValue a0 a1).toNat) := rfl

theorem exec_cdcDec : exec (.cdcDec code) s = whenDecodable code s.cur s fun w v =>
    complete .ok (BitVec.ofNat 64 v) (s.setCur (s.cur + widthBytes w)) := rfl

theorem exec_cdcDecAt : exec (.cdcDecAt code a0) s = whenDecodable code a0.toNat s fun _ v =>
    complete .ok (BitVec.ofNat 64 v) s := rfl

end

/-! ### The checks of an encode -/

section
variable {code : BitVec 3} {w : Width} {v a : Nat} {s : State}

theorem whenEncodable_of_fits (hw : widthOfCode code = some w) (hv : v < 2 ^ widthBits w)
    (hb : a + widthBytes w ≤ s.config.codecBufBytes) (k : Width → Result) : whenEncodable code v a s k = k w := by
  simp [whenEncodable, hw, Nat.not_le.mpr hv, Nat.not_lt.mpr hb]

theorem whenEncodable_of_reserved (hw : widthOfCode code = none) (k : Width → Result) :
    whenEncodable code v a s k = .refused .reservedEncoding := by
  simp [whenEncodable, hw]

theorem whenEncodable_of_large (hw : widthOfCode code = some w) (hbits : widthBits w < 64) (hv : 2 ^ widthBits w ≤ v)
    (k : Width → Result) : whenEncodable code v a s k = .refused .codecValueRange := by
  simp [whenEncodable, hw, hbits, hv]

theorem whenEncodable_of_outside (hw : widthOfCode code = some w) (hv : v < 2 ^ widthBits w)
    (hb : s.config.codecBufBytes < a + widthBytes w) (k : Width → Result) :
    whenEncodable code v a s k = .refused .codecBounds := by
  simp [whenEncodable, hw, Nat.not_le.mpr hv, hb]

end

/-- Every 64-bit value is in range at w = 64, so a value out of range is one of a smaller width (R103). -/
theorem widthBits_lt_of_codecValue_ge {a0 a1 : Word} {w : Width} (hv : 2 ^ widthBits w ≤ (codecValue a0 a1).toNat) :
    widthBits w < 64 := by
  by_contra hbits
  exact Nat.not_lt.mpr hv (codecValue_lt fun h => absurd h hbits)

/-- The codec buffer after a store: the value's bytes in place, every other byte as it was. -/
theorem readByte_storeValue (s : State) (w : Width) (a v x : Nat) :
    readByte (s.storeValue w a v).cbuf x =
      if a ≤ x ∧ x < a + widthBytes w then (toBytes s.config.buildOrder w v)[x - a]? else readByte s.cbuf x := by
  simp [State.storeValue, readByte_writeBytes]

/-- Settles O26. -/
theorem cdcEncStoresAtCursor : Obligations.CdcEncStoresAtCursor := by
  intro code w a0 a1 s hw hv hb
  rw [← codecValue_toNat] at hv ⊢
  refine ⟨(s.storeValue w s.cur (codecValue a0 a1).toNat).cbuf, ?_, readByte_storeValue s w s.cur _⟩
  rw [exec_cdcEnc, whenEncodable_of_fits hw hv hb]
  rfl

/-- Settles O27. -/
theorem cdcEncAtStoresAtAddress : Obligations.CdcEncAtStoresAtAddress := by
  intro code w a0 a1 a2 s hw hv hb
  rw [← codecValue_toNat] at hv ⊢
  refine ⟨(s.storeValue w a2.toNat (codecValue a0 a1).toNat).cbuf, ?_, readByte_storeValue s w a2.toNat _⟩
  rw [exec_cdcEncAt, whenEncodable_of_fits hw hv hb]
  rfl

/-! ### The checks of a decode -/

section
variable {code : BitVec 3} {w : Width} {a : Nat} {s : State}

theorem whenDecodable_of_written {bytes : List Byte} (hw : widthOfCode code = some w)
    (hb : a + widthBytes w ≤ s.config.codecBufBytes) (hlen : bytes.length = widthBytes w)
    (hread : ∀ j, j < widthBytes w → readByte s.cbuf (a + j) = bytes[j]?) (k : Width → Nat → Result) :
    whenDecodable code a s k = k w (fromBytes s.config.buildOrder w bytes) := by
  simp [whenDecodable, hw, Nat.not_lt.mpr hb, (readBytes_eq_some ..).mpr ⟨hlen, hread⟩]

theorem whenDecodable_of_reserved (hw : widthOfCode code = none) (k : Width → Nat → Result) :
    whenDecodable code a s k = .refused .reservedEncoding := by
  simp [whenDecodable, hw]

theorem whenDecodable_of_outside (hw : widthOfCode code = some w) (hb : s.config.codecBufBytes < a + widthBytes w)
    (k : Width → Nat → Result) : whenDecodable code a s k = .refused .codecBounds := by
  simp [whenDecodable, hw, hb]

theorem whenDecodable_of_unwritten {j : Nat} (hw : widthOfCode code = some w)
    (hb : a + widthBytes w ≤ s.config.codecBufBytes) (hj : j < widthBytes w) (hun : written s.cbuf (a + j) = false)
    (k : Width → Nat → Result) : whenDecodable code a s k = .fault .unwrittenCodecByte := by
  have hnone : readByte s.cbuf (a + j) = none := by simpa [written] using hun
  simp [whenDecodable, hw, Nat.not_lt.mpr hb, (readBytes_eq_none ..).mpr ⟨j, hj, hnone⟩]

end

/-- Settles O28. -/
theorem cdcDecReadsAtCursor : Obligations.CdcDecReadsAtCursor := by
  intro code w bytes s hw hb hlen hread
  rw [exec_cdcDec, whenDecodable_of_written hw hb hlen hread]
  rfl

/-- Settles O29. -/
theorem cdcDecAtReadsAtAddress : Obligations.CdcDecAtReadsAtAddress := by
  intro code w a0 bytes s hw hb hlen hread
  rw [exec_cdcDecAt, whenDecodable_of_written hw hb hlen hread]
  rfl

/-! ### Refusals and the fault (R103, R104) -/

/-- Settles O32: each form of a command fails the same check of its run, at the cursor or at its address. -/
theorem codecContractRefusals : Obligations.CodecContractRefusals := by
  unfold Obligations.CodecContractRefusals
  simp only [exec_cdcEnc, exec_cdcEncAt, exec_cdcDec, exec_cdcDecAt, ← codecValue_toNat]
  refine ⟨fun code a0 a1 a2 s hw => ?_, fun code w a0 a1 a2 s hw hv => ?_, fun code w a0 a1 s hw hb => ?_,
    fun code w a0 a1 a2 s hw hb => ?_⟩
  · exact ⟨whenEncodable_of_reserved hw _, whenEncodable_of_reserved hw _, whenDecodable_of_reserved hw _,
      whenDecodable_of_reserved hw _⟩
  · have hbits := widthBits_lt_of_codecValue_ge hv
    exact ⟨whenEncodable_of_large hw hbits hv _, whenEncodable_of_large hw hbits hv _⟩
  · exact ⟨whenDecodable_of_outside hw hb _, fun hv => whenEncodable_of_outside hw hv hb _⟩
  · exact ⟨whenDecodable_of_outside hw hb _, fun hv => whenEncodable_of_outside hw hv hb _⟩

/-- Settles O33: both decodes make the same checks, at the cursor and at the operand's address. -/
theorem unwrittenByteFaults : Obligations.UnwrittenByteFaults := by
  intro code w a j s hw hb hj hun
  simp only [exec_cdcDec, exec_cdcDecAt]
  constructor
  · rintro rfl
    exact whenDecodable_of_unwritten hw hb hj hun _
  · rintro a0 rfl
    exact whenDecodable_of_unwritten hw hb hj hun _

/-! ### Encoding, then decoding -/

/-- A decode passes its checks where a value of its width was stored, and reads that value, in any state `t` that has the
buffer the store left. -/
theorem whenDecodable_of_stored {code : BitVec 3} {w : Width} {v a : Nat} {s t : State}
    (hw : widthOfCode code = some w) (hv : v < 2 ^ widthBits w) (hb : a + widthBytes w ≤ s.config.codecBufBytes)
    (hcbuf : t.cbuf = (s.storeValue w a v).cbuf) (hconfig : t.config = s.config) (k : Width → Nat → Result) :
    whenDecodable code a t k = k w v := by
  have hread : ∀ j, j < widthBytes w → readByte t.cbuf (a + j) = (toBytes t.config.buildOrder w v)[j]? := by
    intro j hj
    simp [hcbuf, hconfig, readByte_storeValue, hj]
  rw [whenDecodable_of_written hw (hconfig ▸ hb) (toBytes_length ..) hread, fromBytes_toBytes _ hv]

/-- Settles O34: in both modes the state after the encode has the buffer of the store, and the answer's data is the stored
value, which is all 64 bits of the operands. -/
theorem encodeThenDecodeAnswersValue : Obligations.EncodeThenDecodeAnswersValue := by
  intro code a0 a1 a2 s t
  have hdata : BitVec.ofNat 64 (codecValue a0 a1).toNat = a1 ++ a0 :=
    (BitVec.ofNat_toNat ..).trans (BitVec.setWidth_eq _)
  constructor
  · intro h
    obtain ⟨w, hw, hrange, hb, hstored⟩ := whenEncodable_next h
    have ht := complete_eq_next.mp hstored
    rw [exec_cdcDecAt, whenDecodable_of_stored hw (codecValue_lt hrange) hb (by simp [ht]) (exec_keeps_config h), hdata]
    rfl
  · intro h
    obtain ⟨w, hw, hrange, hb, hstored⟩ := whenEncodable_next h
    have ht := complete_eq_next.mp hstored
    show exec (.cdcDec code) (t.setCur s.cur) = _
    rw [exec_cdcDec, State.setCur_cur, whenDecodable_of_stored hw (codecValue_lt hrange) hb (by simp [ht])
      (by simpa using exec_keeps_config h), hdata, ht]
    rfl

/-! ### The cursor (R109, R110) -/

/-- Settles O30. -/
theorem cursorRewinds : Obligations.CursorRewinds := by
  refine ⟨rfl, fun s => rfl, fun s hcur => ?_⟩
  cases s
  cases hcur
  rfl

/-- Below 2^64 the cursor's data word is the cursor (30_encoding.md R81). -/
theorem cursorData_toNat {n : Nat} (h : n < 2 ^ 64) : (cursorData n).toNat = n := by
  rw [cursorData, if_pos h, BitVec.toNat_ofNat, Nat.mod_eq_of_lt h]

/-- Settles O31. -/
theorem cursorIsRead : Obligations.CursorIsRead :=
  fun s => ⟨cursorData s.cur, rfl, cursorData_toNat⟩

end Sys2Proof.Machine
end

section
/-! The Backlight frame, byte by byte (41_backlight.md R131 to R139, R148). -/

namespace Sys2Proof.Machine

/-! ### The header (R132) -/

/-- A concatenation puts its left part above its right part's bits. -/
theorem toNat_append_eq_add {m n : Nat} (x : BitVec m) (y : BitVec n) :
    (x ++ y).toNat = x.toNat * 2 ^ n + y.toNat := by
  rw [BitVec.toNat_append, ← Nat.shiftLeft_add_eq_or_of_lt y.isLt, Nat.shiftLeft_eq]

theorem frameHeader_toNat (s : State) : (frameHeader s).toNat =
    s.config.wrcmd.toNat * 2 ^ 26 + s.config.fctrl.toNat * 2 ^ 21 + s.bc0.toNat * 2 ^ 14 + s.bc1.toNat * 2 ^ 7 := by
  simp only [frameHeader, toNat_append_eq_add, BitVec.toNat_zero]
  omega

/-- The header's fields, read back at the bit positions of R132. -/
theorem frameHeader_fields (s : State) :
    (frameHeader s).toNat / 2 ^ 26 = s.config.wrcmd.toNat ∧
    (frameHeader s).toNat / 2 ^ 21 % 2 ^ 5 = s.config.fctrl.toNat ∧
    (frameHeader s).toNat / 2 ^ 14 % 2 ^ 7 = s.bc0.toNat ∧
    (frameHeader s).toNat / 2 ^ 7 % 2 ^ 7 = s.bc1.toNat ∧
    (frameHeader s).toNat % 2 ^ 7 = 0 := by
  have hfctrl := s.config.fctrl.isLt
  have hbc0 := s.bc0.isLt
  have hbc1 := s.bc1.isLt
  rw [frameHeader_toNat]
  omega

/-! ### The grayscale fields (R138) -/

theorem grayscaleFields_getElem? (s : State) {k : Nat} (hk : k < 12) :
    (grayscaleFields s)[k]? = some (if k = 0 then s.gs0 else if k = 1 then s.gs1 else 0#16) := by
  match k with
  | 0 => rfl
  | 1 => rfl
  | k + 2 => exact (List.getElem?_replicate ..).trans (if_pos (by omega))

/-! ### Most significant byte first (R136) -/

/-- A 16-bit value as its two bytes. -/
theorem toBytes_big_w16 (v : Nat) : toBytes .big .w16 v = [byteOf v 1, byteOf v 0] := rfl

/-- A 32-bit value as its four bytes. -/
theorem toBytes_big_w32 (v : Nat) : toBytes .big .w32 v = [byteOf v 3, byteOf v 2, byteOf v 1, byteOf v 0] := rfl

/-- The two bytes of a 16-bit value make it up. -/
theorem bytes_sum_w16 (g : BitVec 16) : (byteOf g.toNat 1).toNat * 2 ^ 8 + (byteOf g.toNat 0).toNat = g.toNat := by
  simpa [toBytes_big_w16, fromBytes, widthBytes, widthBits, bytePlace, List.range_succ] using
    fromBytes_toBytes .big (w := .w16) g.isLt

/-- The four bytes of a 32-bit value make it up. -/
theorem bytes_sum_w32 (h : BitVec 32) : (byteOf h.toNat 3).toNat * 2 ^ 24 + (byteOf h.toNat 2).toNat * 2 ^ 16 +
    (byteOf h.toNat 1).toNat * 2 ^ 8 + (byteOf h.toNat 0).toNat = h.toNat := by
  simpa [toBytes_big_w32, fromBytes, widthBytes, widthBits, bytePlace, List.range_succ, Nat.add_assoc] using
    fromBytes_toBytes .big (w := .w32) h.isLt

/-! ### The whole frame (R131, R135) -/

/-- The pair of entry k stands in places 2k and 2k + 1 of the list of all pairs' members. -/
theorem flatMap_pair_getElem? {α β : Type} (first second : α → β) (l : List α) (k : Nat) :
    (l.flatMap fun x => [first x, second x])[2 * k]? = l[k]?.map first ∧
    (l.flatMap fun x => [first x, second x])[2 * k + 1]? = l[k]?.map second := by
  induction l generalizing k with
  | nil => simp
  | cons x l ih =>
    cases k with
    | zero => simp
    | succ k => simpa [Nat.mul_succ] using ih k

theorem buildFrame_eq (s : State) : buildFrame s =
    [byteOf (frameHeader s).toNat 3, byteOf (frameHeader s).toNat 2, byteOf (frameHeader s).toNat 1,
      byteOf (frameHeader s).toNat 0] ++
    (grayscaleFields s).flatMap fun g => [byteOf g.toNat 1, byteOf g.toNat 0] := by
  simp only [buildFrame, toBytes_big_w32, toBytes_big_w16]

theorem buildFrame_length (s : State) : (buildFrame s).length = 28 := rfl

/-- Grayscale field k is in bytes 4 + 2k and 5 + 2k. -/
theorem buildFrame_grayscale_bytes (s : State) {k : Nat} {g : BitVec 16} (hg : (grayscaleFields s)[k]? = some g) :
    (buildFrame s)[4 + 2 * k]? = some (byteOf g.toNat 1) ∧ (buildFrame s)[5 + 2 * k]? = some (byteOf g.toNat 0) := by
  obtain ⟨hhi, hlo⟩ :=
    flatMap_pair_getElem? (fun g : BitVec 16 => byteOf g.toNat 1) (fun g => byteOf g.toNat 0) (grayscaleFields s) k
  rw [hg] at hhi hlo
  have hhiAt : 4 + 2 * k = 2 * k + 4 := by omega
  have hloAt : 5 + 2 * k = 2 * k + 1 + 4 := by omega
  rw [hhiAt, hloAt, buildFrame_eq]
  exact ⟨hhi, hlo⟩

/-- Settles O37: the header's bytes make up H, whose fields are those of R132, and each grayscale field's two bytes make
up the field. -/
theorem backlightFrameLayout : Obligations.BacklightFrameLayout := by
  intro s
  refine ⟨buildFrame_length s,
    ⟨_, _, _, _, rfl, _, (bytes_sum_w32 (frameHeader s)).symm, frameHeader_fields s⟩, fun k hk => ?_⟩
  obtain ⟨hhi, hlo⟩ := buildFrame_grayscale_bytes s (grayscaleFields_getElem? s hk)
  refine ⟨_, _, hhi, hlo, ?_⟩
  rw [bytes_sum_w16]
  split_ifs <;> rfl

/-- Settles O38: the example state's header is 0x96DFC000, and its grayscale fields are 0xFFFF and eleven zeros. -/
theorem exampleStateFrame : Obligations.ExampleStateFrame := by
  intro s hbc0 hbc1 hgs0 hgs1 hwrcmd hfctrl
  have hheader : frameHeader s = 0x96DFC000#32 := by
    rw [frameHeader, hwrcmd, hfctrl, hbc0, hbc1]
    rfl
  have hfields : grayscaleFields s = 0xFFFF#16 :: List.replicate 11 0#16 := by
    rw [grayscaleFields, hgs0, hgs1]
    rfl
  rw [buildFrame_eq, hheader, hfields]
  decide

end Sys2Proof.Machine
end

section
/-! The Backlight's commands (41_backlight.md R140 to R147): what each answers, and what it leaves in the state. -/

namespace Sys2Proof.Machine

/-! ### The two ends of a setter (R142) -/

/-- A transmission, written out: the frame sent once, DIRTY cleared by the answer OK, the answer's code. -/
theorem transmitBacklight_eq (s : State) : transmitBacklight s = .next (State.answered { s with
    dirty := s.dirty && decide (s.nextAnswer ≠ .ok)
    answers := s.answers.tail
    draws := s.draws + 1
    frames := s.frames ++ [{ target := .backlight, bytes := buildFrame s }] } (answerCode s.nextAnswer) 0#64) := by
  rw [← dirtyAfter_eq, ← code_statusOf]
  rfl

theorem answerCode_ne_valueOutOfRange (a : TransportAnswer) : answerCode a ≠ 0x01#8 := by
  cases a <;> decide

/-- A setter that passed its check does not answer ValueOutOfRange, whatever the transport answers. -/
theorem finishSet_status_ne_valueOutOfRange {f : Bool} {s t : State} {r : Response} (h : finishSet f s = .next t)
    (hr : t.responses = s.responses ++ [r]) : r.status ≠ 0x01#8 := by
  rcases finishSet_next h with ⟨-, h⟩ | ⟨-, rfl⟩
  · rw [transmitBacklight_next h] at hr
    obtain rfl : _ = r := by simpa using hr
    exact code_statusOf s.nextAnswer ▸ answerCode_ne_valueOutOfRange s.nextAnswer
  · obtain rfl : _ = r := by simpa using hr
    decide

/-- Settles O41: BL_FLUSH is the transmission. -/
theorem flushTransmitsCurrentState : Obligations.FlushTransmitsCurrentState :=
  ⟨rfl, transmitBacklight_eq⟩

/-! ### The setters (R140, R141) -/

theorem anyAbove_pair {n : Nat} {a b : Word} : anyAbove n [a, b] = true ↔ n < a.toNat ∨ n < b.toNat := by
  simp [anyAbove_eq_true]

theorem exec_blSetBc_outOfRange {ch1 ch2 : Word} (h : 127 < ch1.toNat ∨ 127 < ch2.toNat) (f : Bool) (s : State) :
    exec (.blSetBc f ch1 ch2) s = .next (s.answered 0x01#8 0#64) :=
  if_pos (anyAbove_pair.mpr h)

theorem exec_blSetGs_outOfRange {ch1 ch2 : Word} (h : 65535 < ch1.toNat ∨ 65535 < ch2.toNat) (f : Bool) (s : State) :
    exec (.blSetGs f ch1 ch2) s = .next (s.answered 0x01#8 0#64) :=
  if_pos (anyAbove_pair.mpr h)

theorem brightnessOf_eq (a : Word) : brightnessOf a = BitVec.ofNat 7 a.toNat := rfl

theorem grayscaleOf_eq (a : Word) : grayscaleOf a = BitVec.ofNat 16 a.toNat := rfl

/-- Settles O39: the registers stored are the operands' low bits, and the two ends are those of R142. -/
theorem setBrightnessStoresBoth : Obligations.SetBrightnessStoresBoth := by
  refine ⟨fun _ _ => ⟨rfl, rfl⟩, fun f _ _ s h => exec_blSetBc_outOfRange h f s, ?_⟩
  rintro ch1 ch2 s t h1 h2 rfl
  rw [exec_blSetBc_inRange h1 h2, exec_blSetBc_inRange h1 h2, brightnessOf_eq, brightnessOf_eq]
  exact ⟨rfl, transmitBacklight_eq _⟩

/-- Settles O40, as O39. -/
theorem setGrayscaleStoresBoth : Obligations.SetGrayscaleStoresBoth := by
  refine ⟨fun _ _ => ⟨rfl, rfl⟩, fun f _ _ s h => exec_blSetGs_outOfRange h f s, ?_⟩
  rintro ch1 ch2 s t h1 h2 rfl
  rw [exec_blSetGs_inRange h1 h2, exec_blSetGs_inRange h1 h2, grayscaleOf_eq, grayscaleOf_eq]
  exact ⟨rfl, transmitBacklight_eq _⟩

/-! ### The getters (R144 to R146) -/

theorem exec_blGetBc (c : Bool) (s : State) :
    exec (.blGetBc c) s = .next (s.answered 0x00#8 ((s.bc c).setWidth 64)) := rfl

theorem exec_blGetGs (c : Bool) (s : State) :
    exec (.blGetGs c) s = .next (s.answered 0x00#8 ((s.gs c).setWidth 64)) := rfl

theorem exec_blGetDirty (s : State) : exec .blGetDirty s = .next (s.answered 0x00#8 (dirtyData s.dirty)) := rfl

theorem dirtyData_eq (d : Bool) : dirtyData d = if d then 1#64 else 0#64 := by
  cases d <;> rfl

/-- Settles O42: `setWidth 64` of a register is its number as a 64-bit word. -/
theorem backlightGettersAnswer : Obligations.BacklightGettersAnswer := by
  refine ⟨⟨rfl, rfl, rfl, rfl, rfl⟩, fun s => ?_⟩
  simp only [BitVec.ofNat_toNat, ← dirtyData_eq]
  exact ⟨exec_blGetBc false s, exec_blGetBc true s, exec_blGetGs false s, exec_blGetGs true s, exec_blGetDirty s⟩

/-! ### A set followed by a get (R147) -/

/-- The low bits of an operand that fits them, zero-extended, are the operand zero-extended. -/
theorem setWidth_extractLsb'_of_lt {n : Nat} {a : Word} (h : a.toNat < 2 ^ n) :
    (a.extractLsb' 0 n).setWidth 64 = a.setWidth 64 := by
  apply BitVec.eq_of_toNat_eq
  simp [Nat.mod_eq_of_lt h]

theorem exec_blGetBc_of_stored {c : Bool} {a : Word} {t : State} (h : t.bc c = brightnessOf a) (ha : a.toNat ≤ 127) :
    exec (.blGetBc c) t = .next (t.answered 0x00#8 (a.setWidth 64)) := by
  rw [exec_blGetBc, h, brightnessOf, setWidth_extractLsb'_of_lt (by omega)]

theorem exec_blGetGs_of_stored {c : Bool} {a : Word} {t : State} (h : t.gs c = grayscaleOf a) (ha : a.toNat ≤ 65535) :
    exec (.blGetGs c) t = .next (t.answered 0x00#8 (a.setWidth 64)) := by
  rw [exec_blGetGs, h, grayscaleOf, setWidth_extractLsb'_of_lt (by omega)]

/-- The response to BL_SET_BC tells whether both values were in range and are stored, or nothing changed. -/
theorem exec_blSetBc_response {f : Bool} {a b : Word} {s t : State} {r : Response}
    (h : exec (.blSetBc f a b) s = .next t) (hr : t.responses = s.responses ++ [r]) :
    (r.status ≠ 0x01#8 ∧ (t.bc0 = brightnessOf a ∧ t.bc1 = brightnessOf b) ∧ a.toNat ≤ 127 ∧ b.toNat ≤ 127) ∨
    (r.status = 0x01#8 ∧ t = s.answered 0x01#8 0#64) := by
  by_cases hin : a.toNat ≤ 127 ∧ b.toNat ≤ 127
  · obtain ⟨ha, hb⟩ := hin
    rw [exec_blSetBc_inRange ha hb] at h
    exact .inl ⟨finishSet_status_ne_valueOutOfRange h hr, (finishSet_keeps_lights h).1, ha, hb⟩
  · rw [exec_blSetBc_outOfRange (by omega)] at h
    cases h
    obtain rfl : _ = r := by simpa using hr
    exact .inr ⟨rfl, rfl⟩

/-- The response to BL_SET_GS tells the same of the grayscale registers. -/
theorem exec_blSetGs_response {f : Bool} {a b : Word} {s t : State} {r : Response}
    (h : exec (.blSetGs f a b) s = .next t) (hr : t.responses = s.responses ++ [r]) :
    (r.status ≠ 0x01#8 ∧ (t.gs0 = grayscaleOf a ∧ t.gs1 = grayscaleOf b) ∧ a.toNat ≤ 65535 ∧ b.toNat ≤ 65535) ∨
    (r.status = 0x01#8 ∧ t = s.answered 0x01#8 0#64) := by
  by_cases hin : a.toNat ≤ 65535 ∧ b.toNat ≤ 65535
  · obtain ⟨ha, hb⟩ := hin
    rw [exec_blSetGs_inRange ha hb] at h
    exact .inl ⟨finishSet_status_ne_valueOutOfRange h hr, (finishSet_keeps_lights h).2, ha, hb⟩
  · rw [exec_blSetGs_outOfRange (by omega)] at h
    cases h
    obtain rfl : _ = r := by simpa using hr
    exact .inr ⟨rfl, rfl⟩

/-- Settles O43: a stored value is in range, so its register's low bits are all of it. -/
theorem setThenGetReturnsInput : Obligations.SetThenGetReturnsInput := by
  constructor
  · intro f a b s t r h hr
    rcases exec_blSetBc_response h hr with ⟨hne, ⟨h0, h1⟩, ha, hb⟩ | ⟨heq, rfl⟩
    · exact ⟨fun _ => ⟨exec_blGetBc_of_stored h0 ha, exec_blGetBc_of_stored h1 hb⟩, fun heq => absurd heq hne⟩
    · exact ⟨fun hne => absurd heq hne, fun _ c => ⟨_, exec_blGetBc c s, exec_blGetBc c _⟩⟩
  · intro f a b s t r h hr
    rcases exec_blSetGs_response h hr with ⟨hne, ⟨h0, h1⟩, ha, hb⟩ | ⟨heq, rfl⟩
    · exact ⟨fun _ => ⟨exec_blGetGs_of_stored h0 ha, exec_blGetGs_of_stored h1 hb⟩, fun heq => absurd heq hne⟩
    · exact ⟨fun hne => absurd heq hne, fun _ c => ⟨_, exec_blGetGs c s, exec_blGetGs c _⟩⟩

end Sys2Proof.Machine
end

section
/-! The checks of the Pixel Buffer's commands (42_pixel.md R170 to R173): liveness, then the index, then the values. -/

namespace Sys2Proof.Machine

/-! ### Each check, passed and failed -/

section
variable {s : State}

theorem whenLive_of_live (h : s.live = true) (k : Result) : whenLive s k = k := if_pos h

theorem whenLive_of_tornDown (h : s.live = false) (k : Result) : whenLive s k = .refused .pixelBufferTornDown := by
  simp [whenLive, h]

theorem whenIndex_of_lt {idx : Word} (h : idx.toNat < s.config.pixelCount) (k : Result) : whenIndex idx s k = k :=
  if_neg (Nat.not_le.mpr h)

theorem whenIndex_of_ge {idx : Word} (h : s.config.pixelCount ≤ idx.toNat) (k : Result) :
    whenIndex idx s k = .next (s.answered 0x02#8 0#64) :=
  if_pos h

theorem whenChannels_of_le {vs : List Word} (h : ∀ v ∈ vs, v.toNat ≤ 255) (k : Result) : whenChannels vs s k = k := by
  simp [whenChannels, anyAbove_eq_false.mpr h]

theorem whenChannels_of_gt {vs : List Word} {v : Word} (hv : v ∈ vs) (h : 255 < v.toNat) (k : Result) :
    whenChannels vs s k = .next (s.answered 0x01#8 0#64) :=
  if_pos (anyAbove_eq_true.mpr ⟨v, hv, h⟩)

/-- The value check of a command that takes a whole pixel. -/
theorem whenChannels_of_pixel_le {r g b brt : Word} (hr : r.toNat ≤ 255) (hg : g.toNat ≤ 255) (hb : b.toNat ≤ 255)
    (hbrt : brt.toNat ≤ 255) (k : Result) : whenChannels [r, g, b, brt] s k = k :=
  whenChannels_of_le (by simp [hr, hg, hb, hbrt]) k

end

/-! ### The three checks in their order (R170) -/

/-- The checks R170 makes of the operands a command has, before its effect `k`. -/
def pixelChecks (i : Instr) (s : State) (k : Result) : Result :=
  whenLive s <|
    match pixelIndex i with
    | some idx => whenIndex idx s (whenChannels (pixelValues i) s k)
    | none => whenChannels (pixelValues i) s k

/-- A Pixel Buffer command is its checks and an effect behind them. -/
theorem exec_eq_pixelChecks {i : Instr} (hf : familyOf i = .pixel) (s : State) : ∃ k, exec i s = pixelChecks i s k := by
  cases i <;> simp only [familyOf, reduceCtorEq] at hf
  all_goals exact ⟨_, rfl⟩

theorem familyOf_of_pixelIndex {i : Instr} {idx : Word} (h : pixelIndex i = some idx) : familyOf i = .pixel := by
  cases i <;> simp only [pixelIndex, reduceCtorEq] at h <;> rfl

theorem familyOf_of_mem_pixelValues {i : Instr} {v : Word} (h : v ∈ pixelValues i) : familyOf i = .pixel := by
  cases i <;> simp only [pixelValues, List.not_mem_nil] at h <;> rfl

/-- Settles O45: liveness is the first check. -/
theorem tornDownBufferRefuses : Obligations.TornDownBufferRefuses := by
  intro i s hf hlive
  obtain ⟨k, hexec⟩ := exec_eq_pixelChecks hf s
  rw [hexec]
  exact whenLive_of_tornDown hlive _

/-- Settles O46: the index is checked before the values. -/
theorem indexCheckedBeforeAll : Obligations.IndexCheckedBeforeAll := by
  intro i idx s hlive hidx hge
  obtain ⟨k, hexec⟩ := exec_eq_pixelChecks (familyOf_of_pixelIndex hidx) s
  rw [hexec, pixelChecks, whenLive_of_live hlive, hidx]
  exact whenIndex_of_ge hge _

/-- Settles O47: past the index check, if the command has one, stands the value check. -/
theorem valuesCheckedBeforeWrite : Obligations.ValuesCheckedBeforeWrite := by
  intro i v s hlive hidx hv habove
  obtain ⟨k, hexec⟩ := exec_eq_pixelChecks (familyOf_of_mem_pixelValues hv) s
  rw [hexec, pixelChecks, whenLive_of_live hlive]
  cases hi : pixelIndex i with
  | none => exact whenChannels_of_gt hv habove k
  | some idx => exact (whenIndex_of_lt (hidx idx hi) _).trans (whenChannels_of_gt hv habove k)

end Sys2Proof.Machine
end

section
/-! One pixel read or written (42_pixel.md R175 to R180). -/

namespace Sys2Proof.Machine

theorem pixelOf_eq (r g b brt : Word) : pixelOf r g b brt = pixelOfValues r.toNat g.toNat b.toNat brt.toNat := rfl

/-- The buffer with one pixel rewritten. -/
theorem modify_pixel_getElem? {px : List Pixel} {i : Nat} {p : Pixel} (hp : px[i]? = some p) (f : Pixel → Pixel)
    (j : Nat) : (px.modify i f)[j]? = if j = i then some (f p) else px[j]? := by
  rw [List.getElem?_modify]
  by_cases hj : j = i
  · simp [hj, hp]
  · simp [hj, Ne.symm hj]

/-- Settles O48: behind the checks one entry is replaced. -/
theorem pxSetWritesOnePixel : Obligations.PxSetWritesOnePixel := by
  intro idx r g b brt s hlive hlen hidx hr hg hb hbrt
  have hp : s.px[idx.toNat]? = some s.px[idx.toNat] := List.getElem?_eq_getElem (hlen ▸ hidx)
  refine ⟨_, ?_, modify_pixel_getElem? hp fun _ => pixelOf r g b brt⟩
  calc exec (.pxSet idx r g b brt) s
      _ = whenIndex idx s _ := whenLive_of_live hlive _
      _ = whenChannels [r, g, b, brt] s _ := whenIndex_of_lt hidx _
      _ = _ := whenChannels_of_pixel_le hr hg hb hbrt _

section
variable {idx : Word} {p : Pixel} {s : State} (hlive : s.live = true) (hidx : idx.toNat < s.config.pixelCount)
  (hp : s.px[idx.toNat]? = some p)
include hlive hidx hp

/-- A setter whose checks pass writes what its `write` makes of the pixel, and nothing else. -/
theorem setChannel_of_inRange {v : Word} (hv : v.toNat ≤ 255) (write : Pixel → Byte → Pixel) :
    ∃ new, setChannel idx v write s = .next (State.answered { s with px := new } 0x00#8 0#64) ∧
      ∀ j, new[j]? = if j = idx.toNat then some (write p (BitVec.ofNat 8 v.toNat)) else s.px[j]? := by
  refine ⟨_, ?_, modify_pixel_getElem? hp (write · (channelOf v))⟩
  rw [setChannel, whenLive_of_live hlive, whenIndex_of_lt hidx, whenChannels_of_le (by simpa using hv)]
  rfl

/-- A getter whose checks pass answers what its `channel` is of the pixel. -/
theorem getChannel_of_inRange (channel : Pixel → Byte) :
    getChannel idx channel s = .next (s.answered 0x00#8 (BitVec.ofNat 64 (channel p).toNat)) := by
  have hpixel : s.pixelAt idx.toNat = p := by simp [State.pixelAt, hp]
  rw [getChannel, whenLive_of_live hlive, whenIndex_of_lt hidx, hpixel, BitVec.ofNat_toNat]
  rfl

end

/-- Settles O49: the four setters differ in the channel written. -/
theorem channelSettersWriteOneChannel : Obligations.ChannelSettersWriteOneChannel := by
  rintro idx v p s hlive hidx hp hv i p' (⟨rfl, rfl⟩ | ⟨rfl, rfl⟩ | ⟨rfl, rfl⟩ | ⟨rfl, rfl⟩)
  · exact setChannel_of_inRange hlive hidx hp hv fun p x => { p with r := x }
  · exact setChannel_of_inRange hlive hidx hp hv fun p x => { p with g := x }
  · exact setChannel_of_inRange hlive hidx hp hv fun p x => { p with b := x }
  · exact setChannel_of_inRange hlive hidx hp hv fun p x => { p with w := x }

/-- Settles O50: the four getters differ in the channel read. -/
theorem channelGettersAnswer : Obligations.ChannelGettersAnswer := by
  intro idx p s hlive hidx hp
  have answers := getChannel_of_inRange hlive hidx hp
  exact ⟨answers Pixel.r, answers Pixel.g, answers Pixel.b, answers Pixel.w⟩

end Sys2Proof.Machine
end

section
/-! The whole buffer written at once (42_pixel.md R174, R181 to R187). -/

namespace Sys2Proof.Machine

/-! ### The new buffer (R174) -/

/-- The new buffer is the list whose entries it computes. -/
theorem newBuffer_eq {s : State} {f : Nat → Pixel} {l : List Pixel} (hlen : l.length = s.config.pixelCount)
    (hentry : ∀ (i : Nat) (hi : i < l.length), f i = l[i]) : newBuffer s f = l := by
  refine List.ext_getElem (by simp [hlen]) fun i _ hi => ?_
  simp [newBuffer, hentry i hi]

theorem newBuffer_const (s : State) (p : Pixel) : newBuffer s (fun _ => p) = List.replicate s.config.pixelCount p :=
  newBuffer_eq (by simp) (by simp)

theorem pixelAt_eq_getElem {s : State} {i : Nat} (h : i < s.px.length) : s.pixelAt i = s.px[i] := by
  simp [State.pixelAt, h]

/-! ### Filling and clearing (R181, R187) -/

/-- Settles O51: the new buffer has one pixel in every place. -/
theorem fillAndClearSetEveryPixel : Obligations.FillAndClearSetEveryPixel := by
  intro s hlive
  refine ⟨fun r g b brt hr hg hb hbrt => ?_, ?_⟩
  · rw [← pixelOf_eq, ← newBuffer_const]
    exact (whenLive_of_live hlive _).trans (whenChannels_of_pixel_le hr hg hb hbrt _)
  · rw [← newBuffer_const]
    exact whenLive_of_live hlive _

/-! ### Pushes (R182, R183) -/

section
variable {s : State} (hlen : s.px.length = s.config.pixelCount) (hpos : 1 ≤ s.config.pixelCount) (p : Pixel)
include hlen hpos

theorem newBuffer_pushFront :
    newBuffer s (fun i => if i = 0 then p else s.pixelAt (i - 1)) = p :: s.px.dropLast := by
  refine newBuffer_eq (by simp; omega) fun i hi => ?_
  cases i with
  | zero => rfl
  | succ i =>
    have hold : i < s.px.length := by simp at hi; omega
    simp [pixelAt_eq_getElem hold]

theorem newBuffer_pushBack :
    newBuffer s (fun i => if i = s.config.pixelCount - 1 then p else s.pixelAt (i + 1)) = s.px.tail ++ [p] := by
  refine newBuffer_eq (by simp; omega) fun i hi => ?_
  by_cases hlast : i = s.config.pixelCount - 1
  · simp [hlast, hlen]
  · have hold : i + 1 < s.px.length := by simp at hi; omega
    rw [if_neg hlast, pixelAt_eq_getElem hold, List.getElem_append_left (by simp; omega), List.getElem_tail]

end

/-- Settles O53: the new buffers of the two pushes, as lists. -/
theorem pushesInsertAndDrop : Obligations.PushesInsertAndDrop := by
  intro r g b brt s hlive hlen hpos hr hg hb hbrt
  rw [← pixelOf_eq, ← newBuffer_pushFront hlen hpos, ← newBuffer_pushBack hlen hpos]
  exact ⟨(whenLive_of_live hlive _).trans (whenChannels_of_pixel_le hr hg hb hbrt _),
    (whenLive_of_live hlive _).trans (whenChannels_of_pixel_le hr hg hb hbrt _)⟩

/-! ### Rotations (R184, R185, R190): both are the library's `List.rotate` -/

/-- `s` with the buffer rotated by `n` places toward the front, and the answer OK. -/
def State.rotated (s : State) (n : Nat) : State := State.answered { s with px := s.px.rotate n } 0x00#8 0#64

/-- On a live buffer of N pixels the command rotates it by `k N` places toward the front. -/
def RotatesBy (i : Instr) (k : Nat → Nat) : Prop :=
  ∀ s : State, s.live = true → s.px.length = s.config.pixelCount →
    exec i s = .next (s.rotated (k s.config.pixelCount))

/-- A new buffer that takes each pixel from `n` places further on, round the end, is the rotated buffer. -/
theorem newBuffer_rotate {s : State} (hlen : s.px.length = s.config.pixelCount) {n : Nat} {f : Nat → Nat}
    (hf : ∀ i < s.config.pixelCount, f i = (i + n) % s.config.pixelCount) :
    newBuffer s (fun i => s.pixelAt (f i)) = s.px.rotate n := by
  refine newBuffer_eq (by simp [hlen]) fun i hi => ?_
  have hi' : i < s.config.pixelCount := by simpa [hlen] using hi
  have hold : f i < s.px.length := by
    rw [hf i hi', hlen]
    exact Nat.mod_lt _ (by omega)
  rw [pixelAt_eq_getElem hold]
  simp [List.getElem_rotate, hf i hi', hlen]

theorem pxRotL_rotatesBy : RotatesBy .pxRotL fun _ => 1 := by
  intro s hlive hlen
  rw [State.rotated, ← newBuffer_rotate hlen fun _ _ => rfl]
  exact whenLive_of_live hlive _

theorem pxRotR_rotatesBy : RotatesBy .pxRotR fun n => n - 1 := by
  intro s hlive hlen
  rw [State.rotated, ← newBuffer_rotate hlen fun i hi => by rw [← Nat.add_sub_assoc (by omega)]]
  exact whenLive_of_live hlive _

theorem rotate_one_eq {α : Type} (l : List α) : l.rotate 1 = l.tail ++ l.head?.toList := by
  cases l <;> simp

theorem rotate_length_sub_one_eq {α : Type} (l : List α) :
    l.rotate (l.length - 1) = l.getLast?.toList ++ l.dropLast := by
  rcases l.eq_nil_or_concat with rfl | ⟨front, a, rfl⟩
  · rfl
  · simp [List.rotate_append_length_eq]

/-- A buffer of one pixel looks the same rotated. -/
theorem State.rotated_of_length_one {s : State} (h : s.px.length = 1) (n : Nat) :
    s.rotated n = s.answered 0x00#8 0#64 := by
  have hpx : s.px.rotate n = s.px := by
    obtain ⟨p, hp⟩ := List.length_eq_one_iff.mp h
    rw [hp, List.rotate_singleton]
  rw [State.rotated, hpx]

/-- Settles O54: a rotation by one place, in either direction, moves one end. -/
theorem rotationsMoveOneEnd : Obligations.RotationsMoveOneEnd := by
  refine ⟨⟨rfl, rfl⟩, fun s hlive => ⟨whenLive_of_tornDown hlive _, whenLive_of_tornDown hlive _⟩, ?_⟩
  intro s hlive hlen
  have hleft := pxRotL_rotatesBy s hlive hlen
  have hright := pxRotR_rotatesBy s hlive hlen
  refine ⟨?_, ?_, fun hone => ?_⟩
  · rw [hleft, State.rotated, rotate_one_eq]
  · rw [hright, State.rotated, ← hlen, rotate_length_sub_one_eq]
  · rw [hleft, hright]
    simp only [State.rotated_of_length_one (hlen.trans hone), and_self]

/-- A list turned twice, by its length in all, is as it was; the empty list is in any case. -/
theorem rotate_rotate_self {α : Type} {l : List α} {a b : Nat} (h : 0 < l.length → a + b = l.length) :
    (l.rotate a).rotate b = l := by
  cases l with
  | nil => simp
  | cons x l => rw [List.rotate_rotate, h (by simp), List.rotate_length]

@[simp] theorem State.rotated_px_length (s : State) (n : Nat) : (s.rotated n).px.length = s.px.length := by
  simp [State.rotated]

/-- A rotation permutes the buffer, and one that completes its turn restores it. -/
theorem rotation_undone {i j : Instr} {k m : Nat → Nat} (hi : RotatesBy i k) (hj : RotatesBy j m)
    (hturn : ∀ n, 0 < n → k n + m n = n) {s : State} (hlive : s.live = true)
    (hlen : s.px.length = s.config.pixelCount) :
    ∃ t u, exec i s = .next t ∧ t.px.Perm s.px ∧ exec j t = .next u ∧ u.px = s.px := by
  refine ⟨_, _, hi s hlive hlen, List.rotate_perm .., hj _ hlive (by rw [State.rotated_px_length, hlen]; rfl), ?_⟩
  exact rotate_rotate_self fun hpos => hlen ▸ hturn _ hpos

/-- Settles O55: 1 and N - 1 places make up a full turn in either order. -/
theorem rotationsAreInversePermutations : Obligations.RotationsAreInversePermutations := by
  intro s hlive hlen
  exact ⟨rotation_undone pxRotL_rotatesBy pxRotR_rotatesBy (fun n hn => by omega) hlive hlen,
    rotation_undone pxRotR_rotatesBy pxRotL_rotatesBy (fun n hn => by omega) hlive hlen⟩

/-- `n` rotations rotate `n` times as far. -/
theorem execTimes_of_rotatesBy {i : Instr} {k : Nat → Nat} (hrot : RotatesBy i k) (n : Nat) {s : State}
    (hlive : s.live = true) (hlen : s.px.length = s.config.pixelCount) :
    ∃ t, execTimes i n s = .next t ∧ t.px = s.px.rotate (n * k s.config.pixelCount) := by
  induction n generalizing s with
  | zero => exact ⟨s, rfl, by simp⟩
  | succ n ih =>
    have hlen' : (s.rotated (k s.config.pixelCount)).px.length = s.config.pixelCount := by simp [hlen]
    obtain ⟨t, ht, hpx⟩ := ih (s := s.rotated _) hlive hlen'
    refine ⟨t, by simpa [execTimes, hrot s hlive hlen] using ht, ?_⟩
    rw [hpx, Nat.succ_mul, Nat.add_comm, ← List.rotate_rotate]
    rfl

/-- Settles O56: N rotations by any number of places are that number of full turns. -/
theorem fullTurnRestoresBuffer : Obligations.FullTurnRestoresBuffer := by
  intro s hlive hlen
  have turn : ∀ {i : Instr} {k : Nat → Nat}, RotatesBy i k →
      ∃ t, execTimes i s.config.pixelCount s = .next t ∧ t.px = s.px := by
    intro i k hrot
    obtain ⟨t, ht, hpx⟩ := execTimes_of_rotatesBy hrot s.config.pixelCount hlive hlen
    exact ⟨t, ht, by rw [hpx, ← hlen, List.rotate_length_mul]⟩
  exact ⟨turn pxRotL_rotatesBy, turn pxRotR_rotatesBy⟩

end Sys2Proof.Machine
end

section
/-! The strip frame, its transmission, and the end of the buffer (42_pixel.md R186, R188, R189). -/

namespace Sys2Proof.Machine

/-- The four bytes of pixel i stand from place 4i on (R188). -/
theorem flatMap_pixelUnit_getElem? {j : Nat} (hj : j < 4) (px : List Pixel) (i : Nat) :
    (px.flatMap pixelUnit)[4 * i + j]? = px[i]?.bind fun p => (pixelUnit p)[j]? := by
  induction px generalizing i with
  | nil => simp
  | cons p px ih =>
    rw [List.flatMap_cons]
    cases i with
    | zero => simpa using List.getElem?_append_left hj
    | succ i =>
      have hrest : 4 * (i + 1) + j = (pixelUnit p).length + (4 * i + j) := by
        simp only [pixelUnit, List.length_cons, List.length_nil]; omega
      rw [hrest, List.getElem?_append_right (by omega), Nat.add_sub_cancel_left, ih]
      rfl

theorem stripFrame_length (s : State) : (stripFrame s).length = 4 * s.px.length := by
  simp [stripFrame, pixelUnit, List.length_flatMap, Nat.mul_comm]

/-- Settles O57: the frame is one unit of four bytes after another. -/
theorem stripFrameLayout : Obligations.StripFrameLayout := by
  intro s hlen
  refine ⟨hlen ▸ stripFrame_length s, fun i p hp => ?_⟩
  have hbyte : ∀ j < 4, (stripFrame s)[4 * i + j]? = (pixelUnit p)[j]? := fun j hj => by
    rw [stripFrame, flatMap_pixelUnit_getElem? hj, hp]
    rfl
  exact ⟨hbyte 0 (by decide), hbyte 1 (by decide), hbyte 2 (by decide), hbyte 3 (by decide)⟩

/-- Settles O58: past the liveness check PX_SHOW writes once, and answers the answer's code. -/
theorem showTransmitsBuffer : Obligations.ShowTransmitsBuffer := by
  refine ⟨rfl, fun s hlive => whenLive_of_tornDown hlive _, fun s hlive => ?_⟩
  rw [← code_statusOf]
  exact whenLive_of_live hlive _

/-- Settles O59: the torn-down buffer refuses, and LIVE is foreign state to the commands of the other two parts. -/
theorem teardownEndsTheBuffer : Obligations.TeardownEndsTheBuffer := by
  refine ⟨rfl, fun s hlive => whenLive_of_tornDown hlive _, ?_⟩
  rintro s t hlive rfl
  refine ⟨whenLive_of_live hlive _, fun i => ⟨fun hf => tornDownBufferRefuses i _ hf rfl, fun hf => ?_⟩⟩
  have hown : sameOwned (familyOf i) (s.answered 0x00#8 0#64)
      (State.answered { s with live := false } 0x00#8 0#64) := by
    cases h : familyOf i with
    | codec => exact ⟨rfl, rfl⟩
    | backlight => exact ⟨rfl, rfl, rfl, rfl, rfl⟩
    | pixel => exact absurd h hf
  exact commandsReadOnlyTheirOwnPart i _ _ hown ⟨rfl, rfl, rfl, rfl, rfl, rfl⟩

end Sys2Proof.Machine
end

section
/-! Transport answers and error statuses (60_exceptions.md R220, R221, R224): the status of a command that wrote, and what
an error leaves in the state. -/

namespace Sys2Proof.Machine

/-! ### The status of a command that wrote to the transport (R221) -/

/-- The one response given carries the code of the transport's answer, and no data. -/
def ReportsAnswer (s t : State) : Prop :=
  t.responses = s.responses ++ [{ status := answerCode s.nextAnswer, data := 0#64 }]

theorem transmitBacklight_reportsAnswer {s t : State} (h : transmitBacklight s = .next t) : ReportsAnswer s t := by
  simp [ReportsAnswer, transmitBacklight_next h, code_statusOf]

/-- A setter in range that wrote did so by its flush. -/
theorem finishSet_reportsAnswer_of_written {f : Bool} {s t : State} (h : finishSet f s = .next t)
    (hw : t.frames ≠ s.frames) : ReportsAnswer s t := by
  rcases finishSet_next h with ⟨-, h⟩ | ⟨-, rfl⟩
  · exact transmitBacklight_reportsAnswer h
  · exact absurd rfl hw

theorem exec_backlight_reportsAnswer_of_written {i : Instr} {s t : State} (hf : familyOf i = .backlight)
    (h : exec i s = .next t) (hw : t.frames ≠ s.frames) : ReportsAnswer s t := by
  rcases exec_backlight_next hf h with
    ⟨d, rfl, -⟩ | ⟨rfl, -⟩ | ⟨f, a, b, -, -, hset⟩ | ⟨f, a, b, -, -, hset⟩ | ⟨-, hflush⟩
  · exact absurd rfl hw
  · exact absurd rfl hw
  · simpa [ReportsAnswer] using finishSet_reportsAnswer_of_written hset hw
  · simpa [ReportsAnswer] using finishSet_reportsAnswer_of_written hset hw
  · exact transmitBacklight_reportsAnswer hflush

theorem exec_pxShow_reportsAnswer {s t : State} (h : exec .pxShow s = .next t) : ReportsAnswer s t := by
  obtain ⟨-, h⟩ := whenLive_next h
  simp [ReportsAnswer, complete_eq_next.mp h, code_statusOf]

/-- Settles O17: only a flushing setter in range, BL_FLUSH and PX_SHOW write, and each answers its answer's code. -/
theorem transportAnswersSurfaceVerbatim : Obligations.TransportAnswersSurfaceVerbatim := by
  intro i s t h hw
  cases hf : familyOf i with
  | codec =>
    obtain ⟨m, c, d, rfl, -⟩ := exec_codec_next hf h
    exact absurd rfl hw
  | backlight => exact exec_backlight_reportsAnswer_of_written hf h hw
  | pixel =>
    by_cases hi : i = .pxShow
    · subst hi
      exact exec_pxShow_reportsAnswer h
    · exact absurd (exec_pixel_keeps_transport hf hi h).1 hw

/-! ### Error statuses (R220, R224) -/

/-- Settles O36: every codec command that passes its checks answers OK. -/
theorem codecNeverReportsErrors : Obligations.CodecNeverReportsErrors := by
  intro i s t hf h
  obtain ⟨m, c, d, rfl, -⟩ := exec_codec_next hf h
  exact ⟨d, rfl⟩

/-- A command that adds one response gives that response's status. -/
theorem status_eq_of_respond {s u : State} {st : Status} {d : DataWord} {r : Response}
    (hr : (u.respond st d).responses = s.responses ++ [r]) (hu : u.responses = s.responses) : r.status = st.code := by
  obtain rfl : _ = r := by simpa [hu] using hr
  rfl

/-- Only the codec's commands write the codec's state, and they answer no error. -/
theorem exec_error_keeps_codec {i : Instr} {s t : State} {r : Response} (h : exec i s = .next t)
    (hr : t.responses = s.responses ++ [r]) (hne : r.status ≠ 0x00#8) : sameOwned .codec s t := by
  refine commandsWriteOnlyTheirOwnPart i s t .codec h fun hf => ?_
  obtain ⟨m, c, d, rfl, -⟩ := exec_codec_next hf h
  exact hne (status_eq_of_respond hr rfl)

/-- A Pixel Buffer command that answers an error was rejected by a check, or is PX_SHOW, which writes no pixel. -/
theorem exec_error_keeps_pixel {i : Instr} {s t : State} {r : Response} (h : exec i s = .next t)
    (hr : t.responses = s.responses ++ [r]) (hne : r.status ≠ 0x00#8) : sameOwned .pixel s t := by
  by_cases hf : familyOf i = .pixel
  · obtain ⟨-, rfl | rfl | ⟨d, rfl, -⟩ | ⟨new, rfl, -⟩ | ⟨-, rfl⟩ | ⟨-, rfl⟩⟩ := exec_pixel_next hf h
    case inr.inr.inr.inl => exact absurd (status_eq_of_respond hr rfl) hne
    case inr.inr.inr.inr.inl => exact absurd (status_eq_of_respond hr rfl) hne
    all_goals exact ⟨rfl, rfl⟩
  · exact commandsWriteOnlyTheirOwnPart i s t .pixel h hf

/-- A transmission that reports an error was not answered OK, so DIRTY stays as it was (41_backlight.md R142). -/
theorem transmitBacklight_error {s t : State} {r : Response} (h : transmitBacklight s = .next t)
    (hr : t.responses = s.responses ++ [r]) (hne : r.status ≠ 0x00#8) :
    sameOwned .backlight s t ∧ r.status = answerCode s.nextAnswer := by
  obtain rfl : _ = r := by simpa using (transmitBacklight_reportsAnswer h).symm.trans hr
  have hans : s.nextAnswer ≠ .ok := fun hok => hne (by rw [hok]; rfl)
  exact ⟨by simp [transmitBacklight_next h, sameOwned, dirtyAfter_eq, hans], rfl⟩

/-- The end of a setter that reports an error is a transmission that did. -/
theorem finishSet_error {f : Bool} {s t : State} {r : Response} (h : finishSet f s = .next t)
    (hr : t.responses = s.responses ++ [r]) (hne : r.status ≠ 0x00#8) :
    f = true ∧ sameOwned .backlight s t ∧ r.status = answerCode s.nextAnswer := by
  rcases finishSet_next h with ⟨hf, h⟩ | ⟨-, rfl⟩
  · exact ⟨hf, transmitBacklight_error h hr hne⟩
  · exact absurd (status_eq_of_respond hr rfl) hne

theorem brightnessOf_toNat {a : Word} (h : a.toNat ≤ 127) : (brightnessOf a).toNat = a.toNat := by
  rw [brightnessOf_eq, BitVec.toNat_ofNat, Nat.mod_eq_of_lt (by omega)]

theorem grayscaleOf_toNat {a : Word} (h : a.toNat ≤ 65535) : (grayscaleOf a).toNat = a.toNat := by
  rw [grayscaleOf_eq, BitVec.toNat_ofNat, Nat.mod_eq_of_lt (by omega)]

/-- A Backlight command that answers an error keeps the Backlight's state, or is a flushing setter in range. -/
theorem exec_backlight_error {i : Instr} {s t : State} {r : Response} (hf : familyOf i = .backlight)
    (h : exec i s = .next t) (hr : t.responses = s.responses ++ [r]) (hne : r.status ≠ 0x00#8) :
    sameOwned .backlight s t ∨
    ∃ ch1 ch2, (i = .blSetBc true ch1 ch2 ∧ ch1.toNat ≤ 127 ∧ ch2.toNat ≤ 127) ∨
      (i = .blSetGs true ch1 ch2 ∧ ch1.toNat ≤ 65535 ∧ ch2.toNat ≤ 65535) := by
  rcases exec_backlight_next hf h with
    ⟨d, rfl, -⟩ | ⟨rfl, -⟩ | ⟨f, a, b, rfl, hin, hset⟩ | ⟨f, a, b, rfl, hin, hset⟩ | ⟨-, hflush⟩
  · exact .inl ⟨rfl, rfl, rfl, rfl, rfl⟩
  · exact .inl ⟨rfl, rfl, rfl, rfl, rfl⟩
  · obtain ⟨rfl, -⟩ := finishSet_error hset hr hne
    have hle := anyAbove_eq_false.mp hin
    exact .inr ⟨a, b, .inl ⟨rfl, hle a (by simp), hle b (by simp)⟩⟩
  · obtain ⟨rfl, -⟩ := finishSet_error hset hr hne
    have hle := anyAbove_eq_false.mp hin
    exact .inr ⟨a, b, .inr ⟨rfl, hle a (by simp), hle b (by simp)⟩⟩
  · exact .inl (transmitBacklight_error hflush hr hne).1

/-- Settles O18: a flushing setter has stored its values and set DIRTY before the transmission that fails. -/
theorem errorsLeaveStateUnchanged : Obligations.ErrorsLeaveStateUnchanged := by
  intro i s t r h hr hne
  refine ⟨exec_error_keeps_codec h hr hne, exec_error_keeps_pixel h hr hne, ?_, ?_, fun hnot => ?_⟩
  · rintro ch1 ch2 rfl h1 h2
    rw [exec_blSetBc_inRange h1 h2] at h
    obtain ⟨-, ⟨hbc0, hbc1, hgs0, hgs1, hdirty⟩, hstatus⟩ := finishSet_error h hr hne
    exact ⟨hbc0 ▸ brightnessOf_toNat h1, hbc1 ▸ brightnessOf_toNat h2, hgs0, hgs1, hdirty, hstatus⟩
  · rintro ch1 ch2 rfl h1 h2
    rw [exec_blSetGs_inRange h1 h2] at h
    obtain ⟨-, ⟨hbc0, hbc1, hgs0, hgs1, hdirty⟩, hstatus⟩ := finishSet_error h hr hne
    exact ⟨hgs0 ▸ grayscaleOf_toNat h1, hgs1 ▸ grayscaleOf_toNat h2, hbc0, hbc1, hdirty, hstatus⟩
  · by_cases hf : familyOf i = .backlight
    · exact (exec_backlight_error hf h hr hne).resolve_right hnot
    · exact commandsWriteOnlyTheirOwnPart i s t .backlight h hf

end Sys2Proof.Machine
end

section
/-! Why a command stops (60_exceptions.md R222, R223, R226): an access to the codec buffer that fails a check, whichever
of the two addressing modes it uses, or a Pixel Buffer command on a torn-down buffer. -/

namespace Sys2Proof.Machine

/-! ### Accesses to the codec buffer (40_codec.md R103, R104) -/

/-- The command encodes the value A1 : A0 at address `a`: the cursor or the address operand. -/
def EncodesAt (i : Instr) (s : State) (code : BitVec 3) (a0 a1 : Word) (a : Nat) : Prop :=
  (i = .cdcEnc code a0 a1 ∧ a = s.cur) ∨ ∃ a2 : Word, i = .cdcEncAt code a0 a1 a2 ∧ a = a2.toNat

/-- The command decodes at address `a`: the cursor or the address operand. -/
def DecodesAt (i : Instr) (s : State) (code : BitVec 3) (a : Nat) : Prop :=
  (i = .cdcDec code ∧ a = s.cur) ∨ ∃ a0 : Word, i = .cdcDecAt code a0 ∧ a = a0.toNat

/-- A codec command accesses the buffer or completes (R109, R110). -/
theorem exec_codec_access {i : Instr} (hf : familyOf i = .codec) (s : State) :
    (∃ code a0 a1 a, EncodesAt i s code a0 a1 a) ∨ (∃ code a, DecodesAt i s code a) ∨ ∃ t, exec i s = .next t := by
  cases i <;> simp only [familyOf, reduceCtorEq] at hf
  case cdcEnc code a0 a1 => exact .inl ⟨code, a0, a1, _, .inl ⟨rfl, rfl⟩⟩
  case cdcEncAt code a0 a1 a2 => exact .inl ⟨code, a0, a1, _, .inr ⟨a2, rfl, rfl⟩⟩
  case cdcDec code => exact .inr (.inl ⟨code, _, .inl ⟨rfl, rfl⟩⟩)
  case cdcDecAt code a0 => exact .inr (.inl ⟨code, _, .inr ⟨a0, rfl, rfl⟩⟩)
  case cdcRewind => exact .inr (.inr ⟨_, rfl⟩)
  case cdcGetCursor => exact .inr (.inr ⟨_, rfl⟩)

section
variable {i : Instr} {s : State} {code : BitVec 3} {a0 a1 : Word} {a : Nat}

/-- An encode is its checks, behind which it completes. -/
theorem EncodesAt.exec_eq (henc : EncodesAt i s code a0 a1 a) :
    ∃ t : Width → State, exec i s = whenEncodable code (codecValue a0 a1).toNat a s fun w => .next (t w) := by
  rcases henc with ⟨rfl, rfl⟩ | ⟨a2, rfl, rfl⟩
  · exact ⟨_, rfl⟩
  · exact ⟨_, rfl⟩

/-- A decode is its checks, behind which it completes. -/
theorem DecodesAt.exec_eq (hdec : DecodesAt i s code a) :
    ∃ t : Width → Nat → State, exec i s = whenDecodable code a s fun w v => .next (t w v) := by
  rcases hdec with ⟨rfl, rfl⟩ | ⟨a0, rfl, rfl⟩
  · exact ⟨fun w v => (s.setCur (s.cur + widthBytes w)).respond .ok (BitVec.ofNat 64 v), rfl⟩
  · exact ⟨fun _ v => s.respond .ok (BitVec.ofNat 64 v), rfl⟩

theorem EncodesAt.widthOfCode_ne_none (henc : EncodesAt i s code a0 a1 a) (hwf : i.wellFormed = true) :
    widthOfCode code ≠ none := by
  rcases henc with ⟨rfl, -⟩ | ⟨a2, rfl, -⟩
  · exact (widthCodeAssigned_iff code).mp hwf
  · exact (widthCodeAssigned_iff code).mp hwf

theorem DecodesAt.widthOfCode_ne_none (hdec : DecodesAt i s code a) (hwf : i.wellFormed = true) :
    widthOfCode code ≠ none := by
  rcases hdec with ⟨rfl, -⟩ | ⟨a0, rfl, -⟩
  · exact (widthCodeAssigned_iff code).mp hwf
  · exact (widthCodeAssigned_iff code).mp hwf

end

/-! ### Refusals (R222) -/

/-- The refusal of an encode whose value is 2^w or more (R103). -/
def RefusedForValue (i : Instr) (r : Refusal) : Prop :=
  r = .codecValueRange ∧ ∃ (code : BitVec 3) (w : Width) (a0 a1 : Word), widthOfCode code = some w ∧
    (i = .cdcEnc code a0 a1 ∨ ∃ a2, i = .cdcEncAt code a0 a1 a2) ∧
    widthBits w < 64 ∧ 2 ^ widthBits w ≤ a0.toNat + 2 ^ 32 * a1.toNat

/-- The refusal of an access that reaches past CB, an encode's value being in range (R103). -/
def RefusedForBounds (i : Instr) (s : State) (r : Refusal) : Prop :=
  r = .codecBounds ∧ ∃ (code : BitVec 3) (w : Width) (a : Nat), widthOfCode code = some w ∧
    ((∃ a0 a1 : Word, a0.toNat + 2 ^ 32 * a1.toNat < 2 ^ widthBits w ∧ EncodesAt i s code a0 a1 a) ∨
      DecodesAt i s code a) ∧
    s.config.codecBufBytes < a + widthBytes w

theorem EncodesAt.refused {i : Instr} {s : State} {code : BitVec 3} {a0 a1 : Word} {a : Nat} {r : Refusal}
    (henc : EncodesAt i s code a0 a1 a) (hwf : i.wellFormed = true) (h : exec i s = .refused r) :
    RefusedForValue i r ∨ RefusedForBounds i s r := by
  obtain ⟨t, hexec⟩ := henc.exec_eq
  rcases whenEncodable_refused (hexec ▸ h) with
    ⟨hnone, -⟩ | ⟨w, hw, ⟨hbits, hlarge, hr⟩ | ⟨hfits, ⟨hpast, hr⟩ | hnext⟩⟩
  · exact absurd hnone (henc.widthOfCode_ne_none hwf)
  · exact .inl ⟨hr, code, w, a0, a1, hw, henc.imp And.left fun ⟨a2, hi, _⟩ => ⟨a2, hi⟩, hbits,
      codecValue_toNat a0 a1 ▸ hlarge⟩
  · exact .inr ⟨hr, code, w, a, hw, .inl ⟨a0, a1, codecValue_toNat a0 a1 ▸ codecValue_lt hfits, henc⟩, hpast⟩
  · cases hnext

theorem DecodesAt.refused {i : Instr} {s : State} {code : BitVec 3} {a : Nat} {r : Refusal}
    (hdec : DecodesAt i s code a) (hwf : i.wellFormed = true) (h : exec i s = .refused r) :
    RefusedForBounds i s r := by
  obtain ⟨t, hexec⟩ := hdec.exec_eq
  rcases whenDecodable_refused (hexec ▸ h) with ⟨hnone, -⟩ | ⟨w, hw, ⟨hpast, hr⟩ | ⟨v, hnext⟩⟩
  · exact absurd hnone (hdec.widthOfCode_ne_none hwf)
  · exact ⟨hr, code, w, a, hw, .inr hdec, hpast⟩
  · cases hnext

theorem exec_codec_refused {i : Instr} {s : State} {r : Refusal} (hf : familyOf i = .codec)
    (hwf : i.wellFormed = true) (h : exec i s = .refused r) : RefusedForValue i r ∨ RefusedForBounds i s r := by
  rcases exec_codec_access hf s with ⟨code, a0, a1, a, henc⟩ | ⟨code, a, hdec⟩ | ⟨t, hnext⟩
  · exact henc.refused hwf h
  · exact .inr (hdec.refused hwf h)
  · exact nomatch hnext.symm.trans h

/-! ### The fault (R223) -/

/-- The fault of a decode inside the buffer with an unwritten byte (R104). -/
def FaultsUnwritten (i : Instr) (s : State) (f : Fault) : Prop :=
  f = .unwrittenCodecByte ∧ ∃ (code : BitVec 3) (w : Width) (a j : Nat), widthOfCode code = some w ∧
    DecodesAt i s code a ∧ a + widthBytes w ≤ s.config.codecBufBytes ∧ j < widthBytes w ∧
    written s.cbuf (a + j) = false

theorem exec_codec_fault {i : Instr} {s : State} {f : Fault} (hf : familyOf i = .codec) (h : exec i s = .fault f) :
    FaultsUnwritten i s f := by
  rcases exec_codec_access hf s with ⟨code, a0, a1, a, henc⟩ | ⟨code, a, hdec⟩ | ⟨t, hnext⟩
  · obtain ⟨t, hexec⟩ := henc.exec_eq
    obtain ⟨w, hnext⟩ := whenEncodable_fault (hexec ▸ h)
    cases hnext
  · obtain ⟨t, hexec⟩ := hdec.exec_eq
    obtain ⟨w, hw, hin, ⟨hfault, j, hj, hunwritten⟩ | ⟨v, hnext⟩⟩ := whenDecodable_fault (hexec ▸ h)
    · exact ⟨hfault, code, w, a, j, hw, hdec, hin, hj, hunwritten⟩
    · cases hnext
  · exact nomatch hnext.symm.trans h

/-! ### The other two parts -/

/-- A setter in range, flushing or not, completes: a transport write always gets an answer (log 6). -/
theorem finishSet_completes (f : Bool) (s : State) : ∃ t, finishSet f s = .next t := by
  cases f
  · exact ⟨_, rfl⟩
  · exact ⟨_, rfl⟩

theorem exec_backlight_completes {i : Instr} (hf : familyOf i = .backlight) (s : State) : ∃ t, exec i s = .next t := by
  cases i <;> simp only [familyOf, reduceCtorEq] at hf
  case blSetBc f ch1 ch2 =>
    by_cases hin : ch1.toNat ≤ 127 ∧ ch2.toNat ≤ 127
    · exact exec_blSetBc_inRange hin.1 hin.2 f s ▸ finishSet_completes f _
    · exact ⟨_, exec_blSetBc_outOfRange (by omega) f s⟩
  case blSetGs f ch1 ch2 =>
    by_cases hin : ch1.toNat ≤ 65535 ∧ ch2.toNat ≤ 65535
    · exact exec_blSetGs_inRange hin.1 hin.2 f s ▸ finishSet_completes f _
    · exact ⟨_, exec_blSetGs_outOfRange (by omega) f s⟩
  case blFlush => exact finishSet_completes true s
  case blGetBc c => exact ⟨_, exec_blGetBc c s⟩
  case blGetGs c => exact ⟨_, exec_blGetGs c s⟩
  case blGetDirty => exact ⟨_, exec_blGetDirty s⟩

/-- A failed index or value check completes with an error, so past the liveness check the command completes. -/
theorem pixelChecks_completes {s : State} (hlive : s.live = true) (i : Instr) (u : State) :
    ∃ t, pixelChecks i s (.next u) = .next t := by
  have hvalues : ∃ t, whenChannels (pixelValues i) s (.next u) = .next t := by
    unfold whenChannels
    split
    · exact ⟨_, rfl⟩
    · exact ⟨_, rfl⟩
  rw [pixelChecks, whenLive_of_live hlive]
  cases pixelIndex i with
  | none => exact hvalues
  | some idx =>
    by_cases hidx : idx.toNat < s.config.pixelCount
    · exact hvalues.imp fun _ hnext => (whenIndex_of_lt hidx _).trans hnext
    · exact ⟨_, whenIndex_of_ge (Nat.le_of_not_lt hidx) _⟩

theorem exec_pixel_completes {i : Instr} {s : State} (hf : familyOf i = .pixel) (hlive : s.live = true) :
    ∃ t, exec i s = .next t := by
  have hchecks : ∃ u, exec i s = pixelChecks i s (.next u) := by
    cases i <;> simp only [familyOf, reduceCtorEq] at hf
    all_goals exact ⟨_, rfl⟩
  obtain ⟨u, hexec⟩ := hchecks
  exact hexec ▸ pixelChecks_completes hlive i u

/-- A Pixel Buffer command completes, or is refused by the liveness check (42_pixel.md R171). -/
theorem exec_pixel_cases {i : Instr} (hf : familyOf i = .pixel) (s : State) :
    (∃ t, exec i s = .next t) ∨ (exec i s = .refused .pixelBufferTornDown ∧ s.live = false) := by
  cases hlive : s.live with
  | false => exact .inr ⟨tornDownBufferRefuses i s hf hlive, rfl⟩
  | true => exact .inl (exec_pixel_completes hf hlive)

/-! ### All commands -/

theorem exec_refused {i : Instr} {s : State} {r : Refusal} (hwf : i.wellFormed = true) (h : exec i s = .refused r) :
    RefusedForValue i r ∨ RefusedForBounds i s r ∨
      (r = .pixelBufferTornDown ∧ familyOf i = .pixel ∧ s.live = false) := by
  cases hf : familyOf i with
  | codec => exact (exec_codec_refused hf hwf h).imp_right .inl
  | backlight =>
    obtain ⟨t, hnext⟩ := exec_backlight_completes hf s
    exact nomatch hnext.symm.trans h
  | pixel =>
    rcases exec_pixel_cases hf s with ⟨t, hnext⟩ | ⟨hrefused, hlive⟩
    · exact nomatch hnext.symm.trans h
    · exact .inr (.inr ⟨Host.Outcome.refused.inj (h.symm.trans hrefused), rfl, hlive⟩)

theorem exec_fault {i : Instr} {s : State} {f : Fault} (h : exec i s = .fault f) : FaultsUnwritten i s f := by
  cases hf : familyOf i with
  | codec => exact exec_codec_fault hf h
  | backlight =>
    obtain ⟨t, hnext⟩ := exec_backlight_completes hf s
    exact nomatch hnext.symm.trans h
  | pixel =>
    rcases exec_pixel_cases hf s with ⟨t, hnext⟩ | ⟨hrefused, -⟩
    · exact nomatch hnext.symm.trans h
    · exact nomatch hrefused.symm.trans h

/-- Settles O19: the codec's checks and the liveness check are the only ones that stop a command. -/
theorem stopsHaveTheirStatedCauses : Obligations.StopsHaveTheirStatedCauses :=
  ⟨fun _ _ _ => exec_refused, fun _ _ _ => exec_fault, fun _ s hf => exec_backlight_completes hf s⟩

end Sys2Proof.Machine
end

section
/-! A command port without a whole command (log 11, 12): too few operand words stand behind an opcode word. -/

namespace Sys2Proof

/-- Fewer words than R78's column k are not yet a command's operands. -/
theorem readOperands_of_short {o : Opcode} (m : BitVec 8) {ws : List Word} (h : ws.length < o.operandWords) :
    o.readOperands m ws = .error .incomplete := by
  cases o
  case cdcDec | cdcRewind | cdcGetCursor | blFlush | blGetBc | blGetGs | blGetDirty | pxRotL | pxRotR | pxClear
      | pxShow | pxTeardown =>
    exact absurd h (Nat.not_lt_zero _)
  all_goals
    simp only [Opcode.readOperands, readOperands1, readOperands2, readOperands3, readOperands4, readOperands5]
    split
    · simp only [Opcode.operandWords, List.length_cons] at h
      omega
    · rfl

/-- The first words of a command, its opcode word among them, are found incomplete. -/
theorem decode_take_encode {i : Instr} {k : Nat} (hi : i.wellFormed = true) (hpos : 0 < k)
    (hk : k < (encode i).length) : decode ((encode i).take k) = .error .incomplete := by
  obtain ⟨w, ws, henc, hlen, hrsv, hop, hmod⟩ := encodeShape i
  have hacc : AcceptedAs w i.opcode := ⟨hrsv, hop, hmod, (wellFormed_iff_of_encode henc).mp hi⟩
  obtain ⟨n, rfl⟩ := Nat.exists_eq_succ_of_ne_zero hpos.ne'
  rw [henc, List.length_cons] at hk
  have hshort : (ws.take n).length < i.opcode.operandWords := by
    rw [List.length_take]
    omega
  rw [henc, List.take_succ_cons, hacc.decode_cons]
  exact readOperands_of_short _ hshort

end Sys2Proof

namespace Sys2Proof.Machine

/-- Words that are only the beginning of a command are waited on where the port ends behind them, and refused where
something that is not a word stands there. -/
theorem fetch_of_decode_incomplete {ws : List Word} {rest : List HostInput} (hrest : leadingWords rest = [])
    (hdec : decode ws = .error .incomplete) :
    fetch (ws.map HostInput.word ++ rest) = if rest = [] then .waiting else .resetInside := by
  cases ws with
  | nil => cases hdec
  | cons w ws =>
    have hwords : w :: leadingWords (ws.map HostInput.word ++ rest) = w :: ws := by simp [hrest]
    have hall : (w :: ws).length = (HostInput.word w :: (ws.map HostInput.word ++ rest)).length ↔ rest = [] := by simp
    simp only [List.map_cons, List.cons_append, fetch, hwords, hdec, hall]

/-- Settles O6: the first words of a command decode as incomplete, and a reset is not a word. -/
theorem partialCommandWaits : Obligations.PartialCommandWaits := by
  refine ⟨fun s hin => by simp only [step, hin, fetch], fun s i k rest hi hpos hk => ?_⟩
  have hdec := decode_take_encode hi hpos hk
  constructor
  · intro hin
    have hfetch := fetch_of_decode_incomplete (rest := []) rfl hdec
    rw [List.append_nil, if_pos rfl] at hfetch
    simp only [step, hin, hfetch]
  · intro hin
    have hfetch := fetch_of_decode_incomplete (rest := .reset :: rest) rfl hdec
    rw [if_neg (List.cons_ne_nil _ _)] at hfetch
    simp only [step, hin, hfetch]

end Sys2Proof.Machine
end
